-- ==== Sys2Proof/Word.lean ====
section
/-! DEFINITION. The words of the GS-410's links: bytes and the little-endian byte strings made of them (chapter 11). -/

namespace Sys2Proof

/-- One character of a link, without its mark: eight data bits (R24, R123, R176). -/
abbrev Byte := BitVec 8

/-- A two-byte field of a host frame (R186). -/
abbrev Half := BitVec 16

/-- A four-byte field of a host frame (R186). -/
abbrev Word := BitVec 32

end Sys2Proof
end

