-- ==== Sys2Proof/Syntax.lean ====
section
/-! DEFINITION. The commands the block takes: one constructor of `Instr` per row of spec/opcode_table.json. A host verb
carries the fields R187 gives its frame, as the raw codes and numbers of R186, and the byte counts that R177 checks.
An event carries what the spec says it brings. -/

namespace Sys2Proof

/-- What R177's length checks see of a completed command frame: the length byte and how many whole bytes came after it. -/
structure FrameLen where
  declared : Byte
  received : Nat
  deriving DecidableEq, Repr

/-- The first whole byte of a transaction and how many whole bytes have followed it (R176). -/
structure FirstByte where
  byte : Byte
  followed : Nat
  deriving DecidableEq, Repr

/-- One point of a RATING_POINTS frame (R187): stage signed, discharge unsigned. -/
structure PointField where
  stage : Half
  discharge : Word
  deriving DecidableEq, Repr

/-- One vertical of a GAUGING_VERTICALS frame (R187). -/
structure VerticalField where
  distance : Word
  method : Byte
  edge : Byte
  edgeFactor : Half
  plannedDepth : Half
  surfaceCoeff : Half
  deriving DecidableEq, Repr

/-- The two contacts on the sounding weight (R121). -/
inductive Contact where
  | surface
  | bed
  deriving DecidableEq, Repr

/-- The two receivers that complete characters (R25, R123). -/
inductive SerialLine where
  | sbus
  | wrx
  deriving DecidableEq, Repr

/-- What the message assembler holds of a winch message when it ends (R124): its characters and what was noted of them. -/
structure WinchMessage where
  chars : List Byte
  framing : Bool
  overrun : Bool
  gap : Bool
  deriving DecidableEq, Repr

/-- The commands of the block: host verbs, host transactions, resets, debounced field inputs, timer ends, events of the
sensor bus, of the winch link and of the meter input. -/
inductive Instr where
  -- Command port (R181, R183, R185)
  | setTime (f : FrameLen) (time : Word)
  | readTime (f : FrameLen)
  | reset (f : FrameLen)
  | readAttention (f : FrameLen)
  -- Ports and sensor bus (R3, R19 to R21, R36, R23, R37)
  | portConfig (f : FrameLen) (port kind address : Byte) (datum : Word) (cls mode missLimit : Byte)
  | portEnable (f : FrameLen) (port : Byte)
  | portDisable (f : FrameLen) (port : Byte)
  | portRead (f : FrameLen) (port : Byte)
  | headZero (f : FrameLen) (port : Byte)
  | busConfig (f : FrameLen) (divisor period : Half)
  | busRestart (f : FrameLen)
  -- Stage selector (R50, R58, R43, R49)
  | stagePolicy (f : FrameLen) (observerClass returnDelay : Byte) (disagreement : Half) (holdLimit filterShift : Byte)
  | stageRead (f : FrameLen)
  | observerEntry (f : FrameLen) (stage : Half) (entryTime : Word)
  | reselect (f : FrameLen)
  -- Rating store and discharge unit (chapters 4 and 5)
  | ratingBegin (f : FrameLen) (slot : Byte) (effective : Word) (allowance : Half)
  | ratingPoints (f : FrameLen) (slot : Byte) (points : List PointField)
  | ratingFinish (f : FrameLen) (slot : Byte)
  | ratingRead (f : FrameLen) (slot firstPoint : Byte)
  | ratingRetire (f : FrameLen) (slot : Byte)
  | shiftPut (f : FrameLen) (slot : Byte) (time : Word) (shift : Half)
  | shiftRemove (f : FrameLen) (slot : Byte) (time : Word)
  | shiftRead (f : FrameLen) (slot : Byte)
  | flowRead (f : FrameLen)
  -- Watch unit (chapter 6)
  | watchPut (f : FrameLen) (key subject direction : Byte) (threshold release : Word)
      (raise clear level lines withdraw onLoss : Byte)
  | watchRead (f : FrameLen) (key : Byte)
  | watchAck (f : FrameLen) (key : Byte)
  | watchRemove (f : FrameLen) (key : Byte)
  | lineConfig (f : FrameLen) (silenceable : Byte)
  -- Cableway controller and meter counter (chapters 7 and 8)
  | cablewayConfig (f : FrameLen) (moveTimeout : Half)
  | cablewayHome (f : FrameLen)
  | cablewayHalt (f : FrameLen)
  | cablewayRead (f : FrameLen)
  | meterConfig (f : FrameLen) (exposure p a1 : Byte) (b1 : Half) (nb : Word) (a2 : Byte) (b2 : Half)
  -- Gauging unit (chapter 9)
  | gaugingPlan (f : FrameLen) (slot direction method : Byte) (offset unsteady : Half)
  | gaugingVerticals (f : FrameLen) (slot : Byte) (verticals : List VerticalField)
  | gaugingStart (f : FrameLen) (slot : Byte)
  | gaugingResume (f : FrameLen) (slot : Byte)
  | gaugingAbort (f : FrameLen) (slot : Byte)
  | gaugingRead (f : FrameLen) (slot firstVertical : Byte)
  | gaugingAdopt (f : FrameLen) (slot : Byte) (shift : Option Half)
  | gaugingRetire (f : FrameLen) (slot : Byte)
  -- Other host transactions and resets (R176 to R178, R184)
  | unknownVerb (f : FrameLen) (verb : Option Byte)
  | readTransaction (clocked : Nat)
  | powerOnReset
  | resetRelease
  -- Port inputs and timers (chapter 1)
  | presenceArrival (p : Fin 4)
  | presenceLoss (p : Fin 4)
  | latchClosing (p : Fin 4)
  | latchOpening (p : Fin 4)
  | buttonPress (p : Fin 4)
  | statusAssertion (p : Fin 4)
  | statusRelease (p : Fin 4)
  | powerGood (p : Fin 4)
  | pgTimeout (p : Fin 4)
  | fixedDelayEnd (p : Fin 4)
  | holdOffExpiry (p : Fin 4)
  | lampBlink (p : Fin 4)
  | powerSequencerTake
  -- Sensor bus (chapter 2)
  | stageCycleExpiry
  | lineGrant
  | pendingDivisorApply
  | masterFrameBegin
  | masterFrameEnd
  | replyWindowClose
  | replyIdleEnd
  | replyLimit
  | lineIdleRelease
  | stray
  | breakEnd
  | recoveryEnd
  -- Cableway inputs, winch link and timers (chapter 7)
  | holdAssertion
  | holdRelease
  | surfaceContactAssertion
  | bedContactAssertion
  | contactRelease (c : Contact)
  | position (distance : BitVec 24) (hoist : Half)
  | arrived
  | winchFault (cause : Byte)
  | winchLinkError (m : WinchMessage)
  | commandSent
  | moveTimerExpiry
  | linkQuietDrain
  -- Meter input, exposure timer and clock (chapters 8 and 10)
  | countEvent
  | meterInputFall
  | exposureExpiry
  | stationTimeRise
  -- Characters and transactions (R28, R25, R176)
  | startBitAccepted
  | characterCompletion (line : SerialLine) (samples : List Bool) (heldTaken : Bool)
  | transactionBegin (first : Option FirstByte)
  deriving DecidableEq, Repr

end Sys2Proof
end

