-- ==== Sys2Proof/Decode.lean ====
section
/-! DEFINITION. Reading commands from bits. No row of spec/opcode_table.json gives bits, so `decodeTableWord` answers none
for every word. A host's command frame is read from its bytes by R176, R177, R186 and R187, and written by the same
tables. -/

namespace Sys2Proof

/-- The command that a word spells by the table's bits: the table gives none to any row. -/
def decodeTableWord (_nbits _w : Nat) : Option Instr := none

/-! ## Fields of a frame (R186) -/

/-- The two-byte field at an offset, least significant byte first; a byte that did not come reads as 0. -/
def halfAt (l : List Byte) (i : Nat) : Half := l.getD (i + 1) 0 ++ l.getD i 0

/-- The four-byte field at an offset. -/
def wordAt (l : List Byte) (i : Nat) : Word := halfAt l (i + 2) ++ halfAt l i

/-- R187: the points of a RATING_POINTS frame, as many as its count says. -/
def pointsAt (l : List Byte) : List PointField :=
  (List.range (l.getD 1 0).toNat).map fun i => ⟨halfAt l (2 + 6 * i), wordAt l (4 + 6 * i)⟩

/-- R187: the verticals of a GAUGING_VERTICALS frame, as many as its count says. -/
def verticalsAt (l : List Byte) : List VerticalField :=
  (List.range (l.getD 1 0).toNat).map fun i =>
    ⟨wordAt l (2 + 12 * i), l.getD (6 + 12 * i) 0, l.getD (7 + 12 * i) 0, halfAt l (8 + 12 * i), halfAt l (10 + 12 * i),
      halfAt l (12 + 12 * i)⟩

/-- R187: the verb of a frame whose verb byte came: `l` is what came after it. -/
def decodeVerb (f : FrameLen) (verb : Byte) (l : List Byte) : Instr :=
  let b := fun i => l.getD i 0
  match verb.toNat with
  | 0x01 => .setTime f (wordAt l 0)
  | 0x02 => .readTime f
  | 0x03 => .reset f
  | 0x04 => .readAttention f
  | 0x10 => .portConfig f (b 0) (b 1) (b 2) (wordAt l 3) (b 7) (b 8) (b 9)
  | 0x11 => .portEnable f (b 0)
  | 0x12 => .portDisable f (b 0)
  | 0x13 => .portRead f (b 0)
  | 0x14 => .headZero f (b 0)
  | 0x15 => .busConfig f (halfAt l 0) (halfAt l 2)
  | 0x16 => .busRestart f
  | 0x20 => .stagePolicy f (b 0) (b 1) (halfAt l 2) (b 4) (b 5)
  | 0x21 => .stageRead f
  | 0x22 => .observerEntry f (halfAt l 0) (wordAt l 2)
  | 0x23 => .reselect f
  | 0x30 => .ratingBegin f (b 0) (wordAt l 1) (halfAt l 5)
  | 0x31 => .ratingPoints f (b 0) (pointsAt l)
  | 0x32 => .ratingFinish f (b 0)
  | 0x33 => .ratingRead f (b 0) (b 1)
  | 0x34 => .ratingRetire f (b 0)
  | 0x35 => .shiftPut f (b 0) (wordAt l 1) (halfAt l 5)
  | 0x36 => .shiftRemove f (b 0) (wordAt l 1)
  | 0x37 => .shiftRead f (b 0)
  | 0x40 => .flowRead f
  | 0x41 => .watchPut f (b 0) (b 1) (b 2) (wordAt l 3) (wordAt l 7) (b 11) (b 12) (b 13) (b 14) (b 15) (b 16)
  | 0x42 => .watchRead f (b 0)
  | 0x43 => .watchAck f (b 0)
  | 0x44 => .watchRemove f (b 0)
  | 0x45 => .lineConfig f (b 0)
  | 0x50 => .cablewayConfig f (halfAt l 0)
  | 0x51 => .cablewayHome f
  | 0x52 => .cablewayHalt f
  | 0x53 => .cablewayRead f
  | 0x54 => .meterConfig f (b 0) (b 1) (b 2) (halfAt l 3) (wordAt l 5) (b 9) (halfAt l 10)
  | 0x60 => .gaugingPlan f (b 0) (b 1) (b 2) (halfAt l 3) (halfAt l 5)
  | 0x61 => .gaugingVerticals f (b 0) (verticalsAt l)
  | 0x62 => .gaugingStart f (b 0)
  | 0x63 => .gaugingResume f (b 0)
  | 0x64 => .gaugingAbort f (b 0)
  | 0x65 => .gaugingRead f (b 0) (b 1)
  | 0x66 => .gaugingAdopt f (b 0) (if f.declared = 4 then some (halfAt l 1) else none)
  | 0x67 => .gaugingRetire f (b 0)
  | _ => .unknownVerb f (some verb)

/-- R176: the command of a completed command transaction: its length byte, which is not 0, and the whole bytes received
after it. -/
def decodeFrame (length : Byte) (bytes : List Byte) : Instr :=
  match bytes with
  | [] => .unknownVerb ⟨length, 0⟩ none
  | verb :: l => decodeVerb ⟨length, bytes.length⟩ verb l

/-! ## The bits of a transaction (R176) -/

/-- R176: a byte from the eight bits of it, the most significant first. -/
def byteOf (bits : List Bool) : Byte := (BitVec.ofBoolListBE bits).setWidth 8

/-- R176: the bits of a byte in the order in which they are shifted, the most significant first. -/
def bitsOf (b : Byte) : List Bool := (List.range 8).map b.getMsbD

/-- R176: the whole bytes among a number of bits, at most `n`; a part of a byte left over is dropped. -/
def wholeBytes : Nat → List Bool → List Byte
  | 0, _ => []
  | n + 1, bits => if bits.length < 8 then [] else byteOf (bits.take 8) :: wholeBytes n (bits.drop 8)

/-- R176: the command of a whole transaction, from the bits sampled on SDI between the edges of CS_N: the first whole byte
gives its kind, and without one it has none. -/
def decodeTransaction (bits : List Bool) : Instr :=
  match wholeBytes bits.length bits with
  | [] => .transactionBegin none
  | first :: bytes => if first = 0 then .readTransaction bytes.length else decodeFrame first bytes

/-! ## The same tables, written (R186, R187) -/

/-- A two-byte field's bytes, least significant first. -/
def halfBytes (x : Half) : List Byte := [x.extractLsb' 0 8, x.extractLsb' 8 8]

/-- A four-byte field's bytes, least significant first. -/
def wordBytes (x : Word) : List Byte :=
  [x.extractLsb' 0 8, x.extractLsb' 8 8, x.extractLsb' 16 8, x.extractLsb' 24 8]

/-- R187: the bytes of a point. -/
def PointField.bytes (x : PointField) : List Byte := halfBytes x.stage ++ wordBytes x.discharge

/-- R187: the bytes of a vertical. -/
def VerticalField.bytes (x : VerticalField) : List Byte :=
  wordBytes x.distance ++ [x.method, x.edge] ++ halfBytes x.edgeFactor ++ halfBytes x.plannedDepth ++
    halfBytes x.surfaceCoeff

/-- R187: the verb byte and the fields of a verb's frame, for a verb whose byte is in the table. -/
def encodeVerb : Instr → Option (List Byte)
  | .setTime _ t => some (0x01 :: wordBytes t)
  | .readTime _ => some [0x02]
  | .reset _ => some [0x03]
  | .readAttention _ => some [0x04]
  | .portConfig _ p k a d c m n => some ([0x10, p, k, a] ++ wordBytes d ++ [c, m, n])
  | .portEnable _ p => some [0x11, p]
  | .portDisable _ p => some [0x12, p]
  | .portRead _ p => some [0x13, p]
  | .headZero _ p => some [0x14, p]
  | .busConfig _ d n => some (0x15 :: (halfBytes d ++ halfBytes n))
  | .busRestart _ => some [0x16]
  | .stagePolicy _ c d g h k => some ([0x20, c, d] ++ halfBytes g ++ [h, k])
  | .stageRead _ => some [0x21]
  | .observerEntry _ h t => some (0x22 :: (halfBytes h ++ wordBytes t))
  | .reselect _ => some [0x23]
  | .ratingBegin _ k t a => some ([0x30, k] ++ wordBytes t ++ halfBytes a)
  | .ratingPoints _ k l => some ([0x31, k, BitVec.ofNat 8 l.length] ++ l.flatMap PointField.bytes)
  | .ratingFinish _ k => some [0x32, k]
  | .ratingRead _ k i => some [0x33, k, i]
  | .ratingRetire _ k => some [0x34, k]
  | .shiftPut _ k t v => some ([0x35, k] ++ wordBytes t ++ halfBytes v)
  | .shiftRemove _ k t => some ([0x36, k] ++ wordBytes t)
  | .shiftRead _ k => some [0x37, k]
  | .flowRead _ => some [0x40]
  | .watchPut _ k su d t r n c l w a o => some ([0x41, k, su, d] ++ wordBytes t ++ wordBytes r ++ [n, c, l, w, a, o])
  | .watchRead _ k => some [0x42, k]
  | .watchAck _ k => some [0x43, k]
  | .watchRemove _ k => some [0x44, k]
  | .lineConfig _ l => some [0x45, l]
  | .cablewayConfig _ t => some (0x50 :: halfBytes t)
  | .cablewayHome _ => some [0x51]
  | .cablewayHalt _ => some [0x52]
  | .cablewayRead _ => some [0x53]
  | .meterConfig _ e p a1 b1 nb a2 b2 =>
    some ([0x54, e, p, a1] ++ halfBytes b1 ++ wordBytes nb ++ [a2] ++ halfBytes b2)
  | .gaugingPlan _ k d m o u => some ([0x60, k, d, m] ++ halfBytes o ++ halfBytes u)
  | .gaugingVerticals _ k l => some ([0x61, k, BitVec.ofNat 8 l.length] ++ l.flatMap VerticalField.bytes)
  | .gaugingStart _ k => some [0x62, k]
  | .gaugingResume _ k => some [0x63, k]
  | .gaugingAbort _ k => some [0x64, k]
  | .gaugingRead _ k i => some [0x65, k, i]
  | .gaugingAdopt _ k v => some ([0x66, k] ++ (match v with
    | some x => halfBytes x
    | none => []))
  | .gaugingRetire _ k => some [0x67, k]
  | .unknownVerb _ _ | .readTransaction _ | .powerOnReset | .resetRelease | .transactionBegin _ => none
  | .presenceArrival _ | .presenceLoss _ | .latchClosing _ | .latchOpening _ | .buttonPress _ => none
  | .statusAssertion _ | .statusRelease _ | .powerGood _ | .pgTimeout _ | .fixedDelayEnd _ => none
  | .holdOffExpiry _ | .lampBlink _ | .powerSequencerTake => none
  | .stageCycleExpiry | .lineGrant | .pendingDivisorApply | .masterFrameBegin | .masterFrameEnd => none
  | .replyWindowClose | .replyIdleEnd | .replyLimit | .lineIdleRelease | .stray | .breakEnd | .recoveryEnd => none
  | .holdAssertion | .holdRelease | .surfaceContactAssertion | .bedContactAssertion | .contactRelease _ => none
  | .position _ _ | .arrived | .winchFault _ | .commandSent | .moveTimerExpiry | .linkQuietDrain => none
  | .countEvent | .meterInputFall | .exposureExpiry | .stationTimeRise | .startBitAccepted => none
  | .characterCompletion _ _ _ | .winchLinkError _ => none

/-- The byte counts a verb's frame was completed with. -/
def Instr.frameLen : Instr → Option FrameLen
  | .setTime f _ | .readTime f | .reset f | .readAttention f => some f
  | .portConfig f _ _ _ _ _ _ _ | .portEnable f _ | .portDisable f _ | .portRead f _ => some f
  | .headZero f _ | .busConfig f _ _ | .busRestart f => some f
  | .stagePolicy f _ _ _ _ _ | .stageRead f | .observerEntry f _ _ | .reselect f => some f
  | .ratingPoints f _ _ | .ratingBegin f _ _ _ | .ratingFinish f _ | .ratingRead f _ _ | .ratingRetire f _ => some f
  | .shiftPut f _ _ _ | .shiftRemove f _ _ | .shiftRead f _ | .flowRead f => some f
  | .watchPut f _ _ _ _ _ _ _ _ _ _ _ => some f
  | .watchRead f _ | .watchAck f _ | .watchRemove f _ | .lineConfig f _ => some f
  | .cablewayConfig f _ | .cablewayHome f | .cablewayHalt f | .cablewayRead f => some f
  | .meterConfig f _ _ _ _ _ _ _ => some f
  | .gaugingVerticals f _ _ | .gaugingPlan f _ _ _ _ _ | .gaugingStart f _ | .gaugingResume f _ => some f
  | .gaugingAbort f _ | .gaugingRead f _ _ | .gaugingAdopt f _ _ | .gaugingRetire f _ | .unknownVerb f _ => some f
  | .readTransaction _ | .powerOnReset | .resetRelease | .transactionBegin _ => none
  | .presenceArrival _ | .presenceLoss _ | .latchClosing _ | .latchOpening _ | .buttonPress _ => none
  | .statusAssertion _ | .statusRelease _ | .powerGood _ | .pgTimeout _ | .fixedDelayEnd _ => none
  | .holdOffExpiry _ | .lampBlink _ | .powerSequencerTake => none
  | .stageCycleExpiry | .lineGrant | .pendingDivisorApply | .masterFrameBegin | .masterFrameEnd => none
  | .replyWindowClose | .replyIdleEnd | .replyLimit | .lineIdleRelease | .stray | .breakEnd | .recoveryEnd => none
  | .holdAssertion | .holdRelease | .surfaceContactAssertion | .bedContactAssertion | .contactRelease _ => none
  | .position _ _ | .arrived | .winchFault _ | .commandSent | .moveTimerExpiry | .linkQuietDrain => none
  | .countEvent | .meterInputFall | .exposureExpiry | .stationTimeRise | .startBitAccepted => none
  | .characterCompletion _ _ _ | .winchLinkError _ => none

end Sys2Proof
end

