-- ==== Sys2Proof/Config.lean ====
section
/-! DEFINITION. The free values: what the manual leaves open and the part nevertheless produces. None has a body, so
no proof can rest on one. Each is named by a row of notes/assumptions. -/

namespace Sys2Proof

/-- The verb byte a SHORT refusal carries when no byte at all came after the length: R186 says "the verb byte as
received" and none was. The argument is the model's own draw counter (notes/assumptions/3.md). -/
opaque Config.unreceivedVerb : Nat → Byte

/-- The length byte of a response whose body is longer than 255 bytes, from that body's length: R186 gives one byte
(notes/assumptions/4.md). -/
opaque Config.overlongLength : Nat → Byte

/-- Whether the bit rate of a divisor in a BUS_CONFIG response is the whole number above the quotient of R23, where that
quotient is not whole: R23 names no rounding (notes/assumptions/5.md). -/
opaque Config.bitRateRoundsUp : Nat → Bool

/-- The bytes of an exposure count or of pulses seen, values to 65,535, for which R186's one-byte count has no room
(notes/assumptions/6.md). -/
opaque Config.wideCountField : Nat → List Byte

/-- The bytes of a winch command named in a CABLEWAY_READ response, from its message type of R189 and the distance or
hoist depth it carries: R186 gives no layout for a command (notes/assumptions/7.md). -/
opaque Config.winchCommandField : Byte → Nat → List Byte

/-- The bytes of the carriage's target in a CABLEWAY_READ response, from whether it is a hoist depth and its value:
R186 gives no layout for a field that is a distance or a depth (notes/assumptions/7.md). -/
opaque Config.targetField : Bool → Nat → List Byte

/-- The bytes of the carriage's onward field, present: `none` stands for HOME (notes/assumptions/7.md). -/
opaque Config.onwardField : Option Nat → List Byte

end Sys2Proof
end

