-- ==== Sys2Proof/Machine/State.lean ====
section
/-! DEFINITION. The state of the GS-410 as plain data: the records of its ten blocks, the response buffer, and the queue
of commands that wait. INVENTORY.md lists every field with its rule and its reset value. -/

namespace Sys2Proof.Machine

/-! ## Port controller (chapter 1) -/

/-- R1: the states of a port, in R1's order (R186 sends the position). -/
inductive PortState where
  | empty | waiting | powering | identifying | online | removing | faulted | disabled
  deriving DecidableEq, Repr

/-- R1, R40: the kinds of sensing head. -/
inductive HeadKind where
  | shaft | pressure | radar
  deriving DecidableEq, Repr

/-- R1: the power-good modes. -/
inductive PgMode where
  | input | fixed100 | fixed250 | fixed500
  deriving DecidableEq, Repr

/-- R1: why a port is FAULTED. -/
inductive FaultCause where
  | powerFault | pgTimeout | noIdentity | wrongKind | latchOpened
  deriving DecidableEq, Repr

/-- R1: what a head reported at its identity exchange; the kind code is kept as received (R188). -/
structure Identity where
  kindCode : Byte
  firmware : Byte
  serial : Word
  deriving DecidableEq, Repr

/-- The timers of a port other than its blink, at most one of which runs (R8, R9, R14), with the milliseconds left. -/
inductive PortTimer where
  | powerGoodWait (left : Nat)
  | fixedDelay (left : Nat)
  | holdOff (left : Nat)
  deriving DecidableEq, Repr

/-- R1: one port record. The queue position is derived from the power queue. -/
structure Port where
  state : PortState
  enabled : Bool
  kind : HeadKind
  address : Nat
  datum : Int
  cls : Nat
  pgMode : PgMode
  missLimit : Nat
  missCount : Nat
  silent : Bool
  faultCause : Option FaultCause
  present : Bool
  latchClosed : Bool
  removedNotPulled : Bool
  identity : Option Identity
  attempts : Nat
  /-- The debounced level of BTN_n, true from a press (R2, notes/assumptions/34.md). -/
  button : Bool
  /-- The debounced level of PFL_n, true while asserted (R2). -/
  statusAsserted : Bool
  timer : Option PortTimer
  /-- Whether a blinking lamp is in its lit half (R5); false for a lamp that does not blink. -/
  blinkLit : Bool
  deriving DecidableEq, Repr

/-- R1: the reset value of the record of port `p`. -/
def Port.reset (p : Fin 4) : Port where
  state := .empty
  enabled := false
  kind := .shaft
  address := p.val + 1
  datum := 0
  cls := 4
  pgMode := .input
  missLimit := 3
  missCount := 0
  silent := false
  faultCause := none
  present := false
  latchClosed := false
  removedNotPulled := false
  identity := none
  attempts := 0
  button := false
  statusAsserted := false
  timer := none
  blinkLit := false

/-! ## Sensor bus controller (chapter 2) -/

/-- R30: how the latest poll of a port ended. -/
inductive PollOutcome where
  | none | valid | noReply | garbled
  deriving DecidableEq, Repr

/-- R29: why a reply is garbled, in the order of the checks. -/
inductive GarbleCause where
  | overlong | framing | overrun | mark | address | length | sum | content
  deriving DecidableEq, Repr

/-- R27: the head status of a POLL reply. -/
inductive HeadStatus where
  | ok | degraded | failed
  deriving DecidableEq, Repr

/-- R30: the outcome of a port's zero exchange. -/
inductive ZeroOutcome where
  | none | pending | done | refused | noReply | garbled | cancelled
  deriving DecidableEq, Repr

/-- R30: the reply status the bus controller keeps for a port. -/
structure ReplyStatus where
  lastPoll : PollOutcome
  garble : Option GarbleCause
  lastReading : Option (Int × HeadStatus)
  lastGood : Option Nat
  zero : ZeroOutcome
  deriving DecidableEq, Repr

/-- R30: the reset value of a reply status. -/
def ReplyStatus.reset : ReplyStatus where
  lastPoll := .none
  garble := none
  lastReading := none
  lastGood := none
  zero := .none

/-- R31: a user of the line that queues. -/
inductive LineUser where
  | round
  | ident (p : Fin 4)
  | zero (p : Fin 4)
  deriving DecidableEq, Repr

/-- R23: what holds the line. -/
inductive Holder where
  | free
  | user (u : LineUser)
  | brk
  | recovery
  deriving DecidableEq, Repr

/-- Where the exchange in flight stands (R24, R28): the user has the line and its frame has not begun; the frame is
being sent; the reply window is open; the reply is being assembled. The address is that of the frame (R27). -/
inductive Phase where
  | idle
  | awaitFrame
  | sending (addr : Nat)
  | window (addr : Nat)
  | reply (addr : Nat)
  deriving DecidableEq, Repr

/-- A character a receiver has completed (R25). A winch character has no mark, held as false. -/
structure RxChar where
  data : Byte
  mark : Bool
  framing : Bool
  deriving DecidableEq, Repr

/-- R25: what the receiver is doing. -/
inductive RxMode where
  | hunting | receiving | waitHigh | off
  deriving DecidableEq, Repr

/-- R25, R26, R123: a receiver with its one-character holding buffer, and what the assembler has taken from it. -/
structure Receiver where
  mode : RxMode
  /-- Whether the latest sample taken while hunting was high (R25); false when none has been taken. -/
  lastHigh : Bool
  holding : Option RxChar
  taken : List RxChar
  overrun : Bool
  deriving DecidableEq, Repr

/-- R39, R120: a receiver after a reset, hunting with its buffer empty. -/
def Receiver.reset : Receiver where
  mode := .hunting
  lastHigh := false
  holding := none
  taken := []
  overrun := false

/-- A character of a master frame as sent: its data and its mark (R24, R27). -/
structure TxChar where
  data : Byte
  mark : Bool
  deriving DecidableEq, Repr

/-- R33: the result of one poll of the round in flight: the reading of a good reply, or none for a miss. -/
structure Poll where
  port : Fin 4
  reading : Option (Int × HeadStatus)
  deriving DecidableEq, Repr

/-- The sensor bus controller's record. -/
structure Bus where
  divisor : Nat
  pendingDivisor : Option Nat
  period : Nat
  /-- Milliseconds to the next stage cycle expiry; none while the timer is stopped (RST_N asserted). -/
  cycleLeft : Option Nat
  holder : Holder
  phase : Phase
  queue : List LineUser
  /-- The round's members not yet served, the one being served first (R33). -/
  roundTodo : List (Fin 4)
  roundPolls : List Poll
  /-- Set from a reply limit until the line has been found idle for one character time (R28). -/
  awaitIdle : Bool
  rx : Receiver
  /-- The characters of the master frame last begun: what SBUS carries of it. -/
  txFrame : List TxChar
  status : Vector ReplyStatus 4
  deriving DecidableEq, Repr

/-- R23, R39: the bus controller at the end of a reset, its stage cycle timer started. -/
def Bus.reset : Bus where
  divisor := 23
  pendingDivisor := none
  period := 60
  cycleLeft := some 60000
  holder := .free
  phase := .idle
  queue := []
  roundTodo := []
  roundPolls := []
  awaitIdle := false
  rx := .reset
  txFrame := []
  status := Vector.replicate 4 .reset

/-! ## Stage selector (chapter 3) -/

/-- R45: the identity of a candidate, and so a source. -/
inductive Source where
  | port (p : Fin 4)
  | observer
  deriving DecidableEq, Repr

/-- R42: why a port was or was not a candidate; the converted stage is kept where R42 keeps it. -/
inductive Disposition where
  | notRead | silent | missed | failed
  | outOfRange (stage : Int)
  | candidate (stage : Int)
  deriving DecidableEq, Repr

/-- The grade of a stage sample, best first (R51, R52, R153). -/
inductive Quality where
  | good | suspect | held | lost
  deriving DecidableEq, Repr

/-- R43: a staff-gauge stage and its time. -/
structure ObserverEntry where
  stage : Int
  time : Nat
  deriving DecidableEq, Repr

/-- R54: a stage sample. -/
structure StageSample where
  time : Nat
  stage : Option Int
  quality : Quality
  source : Option Source
  rise : Option Int
  disagree : Bool
  sourceChanged : Bool
  deriving DecidableEq, Repr

/-- R40: the selector record, with the ranks of the last close that R58 reads (0 for an identity that was no candidate). -/
structure Selector where
  observerClass : Nat
  returnDelay : Nat
  disagreementLimit : Nat
  holdLimit : Nat
  filterShift : Nat
  observerEntry : Option ObserverEntry
  source : Option Source
  lastSource : Option Source
  leads : Vector Nat 5
  reselect : Bool
  anchor : Option Nat
  heldStage : Option Int
  primed : Bool
  rise : Int
  hPrev : Option Int
  tPrev : Option Nat
  dispositions : Vector Disposition 4
  comparedWith : Option (Source × Int)
  ranks : Vector Nat 5
  lastSample : Option StageSample
  deriving DecidableEq, Repr

/-- R40: the selector record after a reset. -/
def Selector.reset : Selector where
  observerClass := 4
  returnDelay := 5
  disagreementLimit := 20
  holdLimit := 30
  filterShift := 2
  observerEntry := none
  source := none
  lastSource := none
  leads := Vector.replicate 5 0
  reselect := false
  anchor := none
  heldStage := none
  primed := false
  rise := 0
  hPrev := none
  tPrev := none
  dispositions := Vector.replicate 4 .notRead
  comparedWith := none
  ranks := Vector.replicate 5 0
  lastSample := none

/-! ## Rating store and discharge unit (chapters 4 and 5) -/

/-- R60: the states of a rating slot. -/
inductive SlotState where
  | empty | loading | ready | inForce | superseded
  deriving DecidableEq, Repr

/-- R60: one point (h, Q) of a rating. -/
structure Point where
  stage : Int
  discharge : Nat
  deriving DecidableEq, Repr

/-- R79: one shift record. -/
structure Shift where
  time : Nat
  shift : Int
  deriving DecidableEq, Repr

/-- R65: why a rating failed its checks. -/
inductive CheckCause where
  | tooFewPoints | qDecreasing
  deriving DecidableEq, Repr

/-- R60: one slot record. -/
structure RatingSlot where
  state : SlotState
  generation : Option Nat
  effective : Nat
  allowance : Nat
  points : List Point
  shifts : List Shift
  checkDetail : Option (CheckCause × Nat)
  inForceSince : Option Nat
  supersededAt : Option Nat
  deriving DecidableEq, Repr

/-- R60: a slot record after a reset, and after retirement (R71). -/
def RatingSlot.reset : RatingSlot where
  state := .empty
  generation := none
  effective := 0
  allowance := 0
  points := []
  shifts := []
  checkDetail := none
  inForceSince := none
  supersededAt := none

/-- R60: the store record and its slots. -/
structure RatingStore where
  nextGeneration : Nat
  inForce : Option (Fin 3)
  slots : Vector RatingSlot 3
  deriving DecidableEq, Repr

/-- R60: the store after a reset. -/
def RatingStore.reset : RatingStore where
  nextGeneration := 1
  inForce := none
  slots := Vector.replicate 3 .reset

/-- R93: a flow sample: the stage sample and the discharge unit's own fields. -/
structure FlowSample where
  sample : StageSample
  discharge : Option Nat
  effShift : Option Int
  slot : Option (Fin 3)
  generation : Option Nat
  below : Bool
  extrapolated : Bool
  clamped : Bool
  noRating : Bool
  deriving DecidableEq, Repr

/-! ## Watch unit (chapter 6) -/

/-- R100: what a watch compares. -/
inductive Subject where
  | stage | discharge | rise
  deriving DecidableEq, Repr

/-- R101: on which side of its threshold a watch raises. -/
inductive WatchDirection where
  | above | below
  deriving DecidableEq, Repr

/-- R99: what a watch assumes when its operand is lost. -/
inductive OnLoss where
  | hold | raise
  deriving DecidableEq, Repr

/-- R99: the states of a watch. -/
inductive WatchState where
  | idle | pending | active | acked | easing
  deriving DecidableEq, Repr

/-- R99, R101: the class of the latest operand. -/
inductive WatchClass where
  | none | beyond | neither | quiet | absent
  deriving DecidableEq, Repr

/-- R99: one watch record; bit n of `lines` stands for Wn (R186). -/
structure Watch where
  subject : Subject
  direction : WatchDirection
  threshold : Int
  release : Int
  raise : Nat
  clear : Nat
  level : Nat
  lines : Byte
  withdraw : Bool
  onLoss : OnLoss
  state : WatchState
  count : Nat
  acked : Bool
  lastOperand : Option Int
  lastClass : WatchClass
  raisedSince : Option Nat
  deriving DecidableEq, Repr

/-- R99, R115 to R117: the watch table, the silenceable set, the lines driven and the withdraw demand. -/
structure WatchUnit where
  table : Vector (Option Watch) 24
  silenceable : Byte
  lines : Byte
  demand : Bool
  deriving DecidableEq, Repr

/-- R99: the watch unit after a reset. -/
def WatchUnit.reset : WatchUnit where
  table := Vector.replicate 24 none
  silenceable := 0
  lines := 0
  demand := false

/-- R113: the summary a watch response carries, derived from the watch unit; bit n of a key set stands for key n. -/
structure WatchSummary where
  installed : BitVec 24
  raised : BitVec 24
  unacknowledged : BitVec 24
  level : Nat
  lines : Byte
  silenceable : Byte
  demand : Bool
  deriving DecidableEq, Repr

/-! ## Cableway controller (chapter 7) -/

/-- The carriage states, in the order of chapter 7's table. -/
inductive CarriageState where
  | unhomed | homing | parked | traversing | lowering | sounding | setting | waitingMeter | raising | returning | stopped
  deriving DecidableEq, Repr

/-- R120: the phase within TRAVERSING, LOWERING and SOUNDING. R120's list repeats STOPPING and PAYING_OUT; the order here, by
first occurrence, gives the position that R186 sends (DESIGN CHOICE, notes/assumptions/47.md). -/
inductive CarriagePhase where
  | none | moving | stopping | payingOut | atBed
  deriving DecidableEq, Repr

/-- R120: what follows RAISING. -/
inductive Onward where
  | distance (mm : Nat)
  | home
  deriving DecidableEq, Repr

/-- R120: the distance or hoist depth of the last move message handed to the link. -/
inductive Target where
  | distance (mm : Nat)
  | hoist (mm : Nat)
  deriving DecidableEq, Repr

/-- R125: the commands the part sends to the winch. -/
inductive WinchCommand where
  | traverseTo (mm : Nat)
  | hoistTo (mm : Nat)
  | halt
  | home
  deriving DecidableEq, Repr

/-- A command handed to the link, with the model's serial number, by which an answer is matched to the awaited one. -/
structure Order where
  serial : Nat
  command : WinchCommand
  deriving DecidableEq, Repr

/-- R120: why the carriage is STOPPED. -/
inductive StopCause where
  | timeout | halted | winchFault | noSurface | noBed
  deriving DecidableEq, Repr

/-- R120, R124: the errors of the winch link. -/
inductive LinkError where
  | framing | overrun | gap | type | sum | range | strayAnswer
  deriving DecidableEq, Repr

/-- R120: the carriage record, with the transmit queue of WTX (R123) and the WRX receiver. -/
structure Carriage where
  state : CarriageState
  phase : CarriagePhase
  onward : Option Onward
  target : Option Target
  pendingMove : Option WinchCommand
  awaited : Option Order
  outstanding : List Order
  /-- Milliseconds left on the move timer; none while it is stopped (R129). -/
  moveLeft : Option Nat
  distance : Option Nat
  hoist : Option Nat
  surfaceHoist : Option Nat
  bedHoist : Option Nat
  soundedDepth : Option Nat
  stopCause : Option StopCause
  faultCode : Option Byte
  linkError : Option LinkError
  hold : Bool
  surfaceContact : Bool
  bedContact : Bool
  moveTimeout : Nat
  /-- Commands handed to the link whose last character has not been sent, oldest first. -/
  wtx : List Order
  /-- The characters of the command last sent: what WTX carried of it. -/
  wtxSent : List Byte
  nextSerial : Nat
  rx : Receiver
  deriving DecidableEq, Repr

/-- R120: the carriage record after a reset. -/
def Carriage.reset : Carriage where
  state := .unhomed
  phase := .none
  onward := none
  target := none
  pendingMove := none
  awaited := none
  outstanding := []
  moveLeft := none
  distance := none
  hoist := none
  surfaceHoist := none
  bedHoist := none
  soundedDepth := none
  stopCause := none
  faultCode := none
  linkError := none
  hold := true
  surfaceContact := false
  bedContact := false
  moveTimeout := 300
  wtx := []
  wtxSent := []
  nextSerial := 0
  rx := .reset

/-! ## Meter counter (chapter 8) -/

/-- R143: the meter rating. -/
structure MeterRating where
  p : Nat
  a1 : Nat
  b1 : Nat
  nb : Nat
  a2 : Nat
  b2 : Nat
  deriving DecidableEq, Repr

/-- R145: the rating fields, in the order in which a refusal names the first that fails. -/
inductive MeterField where
  | p | a1 | b1 | nb | a2 | b2
  deriving DecidableEq, Repr

/-- R143: how the latest exposure ended. -/
inductive ExposureOutcome where
  | none | done | abandoned
  deriving DecidableEq, Repr

/-- R150: a point result. -/
structure PointResult where
  count : Nat
  taken : Nat
  rate : Nat
  segment : Option Nat
  velocity : Nat
  still : Bool
  countSaturated : Bool
  velocityLimited : Bool
  deriving DecidableEq, Repr

/-- R143: the counter record. -/
structure Meter where
  rating : Option MeterRating
  exposureTime : Nat
  exposing : Bool
  taken : Option Nat
  count : Nat
  saturated : Bool
  /-- Milliseconds left on the exposure timer; none while it is stopped. -/
  exposureLeft : Option Nat
  lastOutcome : ExposureOutcome
  lastResult : Option PointResult
  inputHigh : Bool
  pulses : Nat
  deriving DecidableEq, Repr

/-- R143: the counter record after a reset. -/
def Meter.reset : Meter where
  rating := none
  exposureTime := 40
  exposing := false
  taken := none
  count := 0
  saturated := false
  exposureLeft := none
  lastOutcome := .none
  lastResult := none
  inputHigh := false
  pulses := 0

/-! ## Gauging unit (chapter 9) -/

/-- R153: the states of a gauging. -/
inductive GaugingState where
  | planned | running | suspended | complete | aborted
  deriving DecidableEq, Repr

/-- R153: the order in which the verticals are visited. -/
inductive GaugingDirection where
  | fromStart | fromEnd
  deriving DecidableEq, Repr

/-- R153: the methods of a vertical. -/
inductive Method where
  | sixTenths | twoPoint | threePoint | surface
  deriving DecidableEq, Repr

/-- R153, R159: what the gauging unit waits for. -/
inductive Step where
  | none | sounding | setting | exposing | returning
  deriving DecidableEq, Repr

/-- R153: why a gauging is suspended. -/
inductive SuspendCause where
  | withdraw | carriageStopped | meterRefused
  deriving DecidableEq, Repr

/-- R154: the status of a vertical. -/
inductive VerticalStatus where
  | todo | done | skipped
  deriving DecidableEq, Repr

/-- R154: a vertical record. `planned` keeps the method as appended, to which R165's discard returns a downgraded one. -/
structure Vertical where
  distance : Nat
  method : Method
  planned : Method
  edge : Bool
  edgeFactor : Nat
  plannedDepth : Option Nat
  surfaceCoeff : Nat
  status : VerticalStatus
  depth : Option Nat
  /-- Point depth and velocity, in the order taken. -/
  points : List (Nat × Nat)
  mean : Option Nat
  span : Nat
  /-- The partial, in half-mm³/s. -/
  flow : Option Nat
  nearBed : Bool
  downgraded : Bool
  still : Bool
  saturated : Bool
  deriving DecidableEq, Repr

/-- R153: the results of a gauging, all absent until completion. -/
structure GaugingResults where
  measured : Option Nat
  meanHeight : Option Int
  rated : Option Nat
  deviation : Option Int
  indicated : Option Int
  slot : Option (Fin 3)
  generation : Option Nat
  deriving DecidableEq, Repr

/-- R153: a gauging's results at creation. -/
def GaugingResults.absent : GaugingResults where
  measured := none
  meanHeight := none
  rated := none
  deviation := none
  indicated := none
  slot := none
  generation := none

/-- R153: the flags of a gauging. -/
structure GaugingFlags where
  unsteady : Bool
  withdrawn : Bool
  sourceChanged : Bool
  winchFault : Bool
  extrapolated : Bool
  deriving DecidableEq, Repr

/-- R153: a gauging's flags at creation. -/
def GaugingFlags.clear : GaugingFlags where
  unsteady := false
  withdrawn := false
  sourceChanged := false
  winchFault := false
  extrapolated := false

/-- R153: a gauging record. -/
structure Gauging where
  state : GaugingState
  direction : GaugingDirection
  method : Method
  offset : Nat
  unsteadyLimit : Nat
  verticals : List Vertical
  current : Option Nat
  point : Option Nat
  step : Step
  startTime : Option Nat
  endTime : Option Nat
  stageAtStart : Option Int
  latest : Option (Option Int × Quality)
  stageSum : Int
  stageCount : Nat
  worst : Option Quality
  flags : GaugingFlags
  suspendCause : Option SuspendCause
  stopCause : Option StopCause
  results : GaugingResults
  adopted : Bool
  adoptedShift : Option Shift
  deriving DecidableEq, Repr

/-! ## Command port (chapter 10) -/

/-- The result codes, in the order of the opening file's table (R186 sends the position). -/
inductive ResultCode where
  | ok | busy | noRecord | full | badField | wrongState | checkFailed | unknownVerb
  deriving DecidableEq, Repr

/-- R177: the frame fault of a refusal by the frame checks. -/
inductive FrameFault where
  | short | long | layout
  deriving DecidableEq, Repr

/-- R63: which test a point of a frame failed. -/
inductive PointTest where
  | range | order
  deriving DecidableEq, Repr

/-- R81: what a shift write did. -/
inductive ShiftWrite where
  | replaced | inserted
  deriving DecidableEq, Repr

/-- The fields of a response after its verb byte, by the rule that names them. `Response.frame` lays them out in bytes. -/
inductive Body where
  /-- No fields. -/
  | nil
  /-- A refusal by R177. -/
  | frameFault (k : FrameFault)
  /-- SET_TIME (R181): the time as set, the time and clock unset before. -/
  | timeSet (asSet before : Nat) (unsetBefore : Bool)
  /-- READ_TIME (R181). -/
  | time (now : Nat) (unset : Bool)
  /-- READ_ATTENTION (R183): the set as the 40 bits of R186. -/
  | attention (set : BitVec 40)
  /-- A port verb (R3, R19 to R21). -/
  | port (r : Port) (position : Option Nat) (queue : List (Fin 4))
  /-- BUS_CONFIG (R23). -/
  | bus (b : Bus)
  /-- STAGE_POLICY (R50): the five values as taken. -/
  | policy (observerClass returnDelay disagreement holdLimit filterShift : Nat)
  /-- OBSERVER_ENTRY (R43): the entry as held and its freshness now. -/
  | observer (e : ObserverEntry) (fresh : Bool)
  /-- STAGE_READ (R58): the record and the observer entry's freshness now. -/
  | selector (r : Selector) (fresh : Bool)
  /-- RATING_READ and RATING_BEGIN (R62, R75): the store fields, the slot, the first point index. -/
  | rating (nextGeneration : Nat) (inForce : Option (Fin 3)) (r : RatingSlot) (first : Nat)
  /-- RATING_READ of an EMPTY slot (R75): the state and the store fields. -/
  | ratingEmpty (nextGeneration : Nat) (inForce : Option (Fin 3)) (st : SlotState)
  /-- RATING_POINTS refused at check 5 (R63). -/
  | pointFailed (index : Nat) (test : PointTest)
  /-- RATING_POINTS refused with FULL (R63): points held and room left. -/
  | pointsFull (held room : Nat)
  /-- RATING_POINTS taken (R64): points held, stage of the last, room left. -/
  | pointsTaken (held : Nat) (lastStage : Int) (room : Nat)
  /-- RATING_FINISH failed (R65): the check detail. -/
  | checkDetail (cause : CheckCause) (index : Nat)
  /-- RATING_FINISH taken (R66). -/
  | sealed (slot : Fin 3) (generation effective count : Nat)
  /-- RATING_RETIRE (R71): the slot's state after the verb. -/
  | slotState (st : SlotState)
  /-- SHIFT_PUT and GAUGING_ADOPT (R81, R171). -/
  | shiftWritten (how : ShiftWrite) (index count : Nat)
  /-- SHIFT_REMOVE (R82). -/
  | shiftsHeld (count : Nat)
  /-- SHIFT_READ (R83). -/
  | shifts (st : SlotState) (generation : Option Nat) (records : List Shift) (effective : Int)
  /-- FLOW_READ (R94). -/
  | flow (sample : Option FlowSample)
  /-- A watch verb's record and the summary (R108, R111, R114). -/
  | watch (w : Watch) (summary : WatchSummary)
  /-- A watch verb's summary alone (R112 to R114). -/
  | watchSummary (summary : WatchSummary)
  /-- LINE_CONFIG (R116, R113). -/
  | lineConfig (silenceable lines : Byte) (summary : WatchSummary)
  /-- CABLEWAY_CONFIG (R122): the move timeout as taken. -/
  | moveTimeout (seconds : Nat)
  /-- CABLEWAY_READ (R142). -/
  | carriage (r : Carriage) (demand : Bool)
  /-- METER_CONFIG (R145): the counter record, and the first failing rating field of a refusal at check 1. -/
  | meter (r : Meter) (failing : Option MeterField)
  /-- GAUGING_PLAN and GAUGING_START (R155, R158): the header. -/
  | gaugingHeader (g : Gauging)
  /-- GAUGING_VERTICALS taken (R156): verticals held and room left. -/
  | verticalsTaken (held room : Nat)
  /-- GAUGING_VERTICALS or GAUGING_START refused for a vertical (R156, R157): its index. -/
  | verticalFailed (index : Nat)
  /-- GAUGING_READ (R174): the header and up to four verticals from the first index. -/
  | gauging (g : Gauging) (first : Nat)
  deriving DecidableEq, Repr

/-- R186: a response: its result code, the code of the verb it answers, and its fields. -/
structure Response where
  code : ResultCode
  verb : Byte
  body : Body
  deriving DecidableEq, Repr

/-- R176: the reception of the command port. -/
inductive Reception where
  | idle
  | command (length : Byte) (counted : Nat)
  | read (sent : Nat)
  deriving DecidableEq, Repr

/-- The command port's own record (chapter 10); RDY and ATTN are derived from it. -/
structure CommandPort where
  reception : Reception
  buffer : Option Response
  time : Nat
  clockUnset : Bool
  /-- R182: the attention summary, in the bits of R186. -/
  attention : BitVec 40
  /-- R176: the bytes shifted out on SDO by the latest transaction, from the CS_N falling edge on. -/
  sdo : List Byte
  /-- R184: a transaction that began before or during RST_N is under way, which the port ignores to its end. -/
  ignoring : Bool
  deriving DecidableEq, Repr

/-- The command port's record after a reset. -/
def CommandPort.reset : CommandPort where
  reception := .idle
  buffer := none
  time := 0
  clockUnset := true
  attention := 0
  sdo := []
  ignoring := false

/-- The whole block, and the queue of commands that wait for it. -/
structure State where
  /-- R184: RST_N is asserted. -/
  inReset : Bool
  host : CommandPort
  ports : Vector Port 4
  /-- R7: the power queue, front first. -/
  powerQueue : List (Fin 4)
  bus : Bus
  selector : Selector
  ratings : RatingStore
  /-- R85: the discharge unit's last flow sample. -/
  lastFlow : Option FlowSample
  watches : WatchUnit
  carriage : Carriage
  meter : Meter
  gaugings : Vector (Option Gauging) 4
  /-- How many free values have been drawn (the model's own). -/
  freeDraws : Nat
  /-- The commands that wait, first in, first out (the model's own). -/
  pending : List Instr
  deriving DecidableEq, Repr

/-- The block right after reset, at the release of RST_N (R184): every record at the reset value its chapter gives. -/
def State.reset : State where
  inReset := false
  host := .reset
  ports := #v[.reset 0, .reset 1, .reset 2, .reset 3]
  powerQueue := []
  bus := .reset
  selector := .reset
  ratings := .reset
  lastFlow := none
  watches := .reset
  carriage := .reset
  meter := .reset
  gaugings := Vector.replicate 4 none
  freeDraws := 0
  pending := []

/-- Why a step ends in a fault. It has no constructor: the spec gives every command of the table an effect in every
state, and none stops the block. -/
inductive Fault where
  deriving DecidableEq, Repr

/-- Why a step ends in a refusal. -/
inductive Refusal where
  /-- Raised by an arm of exec whose command has no meaning yet (safe: nothing can be proved of it). No arm raises it now. -/
  | notModelled (mnemonic : String)
  deriving DecidableEq, Repr

end Sys2Proof.Machine
end

