-- ==== Sys2Proof/Machine/Flags.lean ====
section
/-! DEFINITION. The levels and flags the block shows: the attention summary (R182, R186), RDY and ATTN, each port's
power enable, tap and lamp (R4, R5), and the level of SBUS. -/

namespace Sys2Proof.Machine

/-- R182: the members of the attention summary. -/
inductive Member where
  | port (p : Fin 4)
  | busError
  | roundOverrun
  | sourceChange
  | qualityChange
  | ratingSwap
  | watch (k : Fin 24)
  | gauging (n : Fin 4)
  | cableway
  deriving DecidableEq, Repr

/-- R186: the bit of a member in a READ_ATTENTION response. -/
def Member.bit : Member → Nat
  | .port p => p.val
  | .busError => 4
  | .roundOverrun => 5
  | .sourceChange => 6
  | .qualityChange => 7
  | .ratingSwap => 8
  | .watch k => 9 + k.val
  | .gauging n => 33 + n.val
  | .cableway => 37

/-- R182: the set with a member added; a member already in the set leaves it as it was. -/
def withMember (set : BitVec 40) (m : Member) : BitVec 40 := set ||| BitVec.twoPow 40 m.bit

/-- R182: whether a member is in the set. -/
def hasMember (set : BitVec 40) (m : Member) : Bool := set.getLsbD m.bit

/-- R182: the block adds a member to the attention summary. -/
def addMember (m : Member) (s : State) : State :=
  { s with host := { s.host with attention := withMember s.host.attention m } }

/-- R182: the member is added when the condition holds. -/
def addMemberIf (c : Bool) (m : Member) (s : State) : State := if c then addMember m s else s

/-- R178: RDY is asserted while the buffer holds a response. -/
def State.rdy (s : State) : Bool := s.host.buffer.isSome

/-- R182: ATTN is asserted while the attention summary is not empty. -/
def State.attn (s : State) : Bool := s.host.attention != 0

/-- R4: the states in which a port's power enable is on. -/
def PortState.powered : PortState → Bool
  | .powering | .identifying | .online | .removing => true
  | .empty | .waiting | .faulted | .disabled => false

/-- R4: the states in which a port's tap is connected. -/
def PortState.tapped : PortState → Bool
  | .identifying | .online | .removing => true
  | .empty | .waiting | .powering | .faulted | .disabled => false

/-- R16: the states in which a port is polled. -/
def PortState.polled : PortState → Bool
  | .online | .removing => true
  | .empty | .waiting | .powering | .identifying | .faulted | .disabled => false

/-- R5: the colours of a lit lamp. -/
inductive LampColour where
  | green | red | amber
  deriving DecidableEq, Repr

/-- R5: what a lamp shows; a blink has its rate in hertz. -/
inductive LampPattern where
  | dark
  | steady (c : LampColour)
  | blinking (c : LampColour) (hertz : Nat)
  deriving DecidableEq, Repr

/-- R5: the pattern of a port's lamp from its state and its silent field. -/
def lampPattern (st : PortState) (silent : Bool) : LampPattern :=
  match st with
  | .empty | .disabled => .dark
  | .waiting => .steady .amber
  | .powering | .identifying | .removing => .blinking .green 1
  | .online => .steady (if silent then .red else .green)
  | .faulted => .blinking .red 4

/-- R5: whether a pattern blinks. -/
def LampPattern.blinks : LampPattern → Bool
  | .dark | .steady _ => false
  | .blinking _ _ => true

/-- R5: the pattern of a port record's lamp. -/
def Port.lamp (r : Port) : LampPattern := lampPattern r.state r.silent

/-- R5: the colour a port's lamp shows at the moment, none while dark. -/
def Port.lampLit (r : Port) : Option LampColour :=
  match r.lamp with
  | .dark => none
  | .steady c => some c
  | .blinking c _ => if r.blinkLit then some c else none

/-- R17: what the silent field of a record must be. -/
def Port.silentNow (r : Port) : Bool := r.state.polled && decide (r.missLimit ≤ r.missCount)

/-- R37, R24: whether the part drives SBUS: during the low of a break and while it sends a master frame. -/
def Bus.driven (b : Bus) : Bool :=
  match b.holder, b.phase with
  | .brk, _ => true
  | _, .sending _ => true
  | _, _ => false

/-- R153: a gauging that is RUNNING or SUSPENDED. -/
def GaugingState.isOpen : GaugingState → Bool
  | .running | .suspended => true
  | .planned | .complete | .aborted => false

/-- R113: a watch that is raised. -/
def WatchState.raised : WatchState → Bool
  | .active | .acked | .easing => true
  | .idle | .pending => false

end Sys2Proof.Machine
end

