-- ==== Sys2Proof/Machine/Ops.lean ====
section
/-! DEFINITION. The operations every block shares: rounding and clamping, the frame checks and the placing of a response
(R177, R178), the hold of RST_N (R184), and the passing of time on an idle step. -/

namespace Sys2Proof.Machine

/-! ## Arithmetic -/

/-- "Half up" of the Conventions: the quotient of non-negative values to the nearest whole number, an exact half up. -/
def halfUp (n d : Nat) : Nat := (2 * n + d) / (2 * d)

/-- "Half away" of the Conventions: the quotient of a signed value to the nearest whole number, an exact half away
from zero. -/
def halfAway (n : Int) (d : Nat) : Int :=
  if 0 ≤ n then (halfUp n.toNat d : Int) else -(halfUp (-n).toNat d : Int)

/-- A clamped field of the Conventions: a value outside the range is moved to the nearest bound. -/
def clampNat (lo hi v : Nat) : Nat := if v < lo then lo else if hi < v then hi else v

/-- A signed value limited to a range. -/
def clampInt (lo hi v : Int) : Int := if v < lo then lo else if hi < v then hi else v

/-- Adding 1 up to a maximum at which the value stays (R17, R47, R180). -/
def saturatingSucc (max v : Nat) : Nat := if v < max then v + 1 else v

/-- The key of a table of `n` records that a frame's byte names, or none above the last. -/
def keyOf (n : Nat) (b : Byte) : Option (Fin n) := if h : b.toNat < n then some ⟨b.toNat, h⟩ else none

/-- A table with its record at a key replaced. -/
def putAt {α : Type} {n : Nat} (v : Vector α n) (k : Fin n) (x : α) : Vector α n := v.set k.val x k.isLt

/-- A table with every record rewritten by its key and its old value. -/
def mapTable {α : Type} {n : Nat} (f : Fin n → α → α) (v : Vector α n) : Vector α n := Vector.ofFn fun k => f k (v.get k)

/-- Whether a signed value lies in a range. -/
def inRange (lo hi v : Int) : Bool := decide (lo ≤ v) && decide (v ≤ hi)

/-! ## Station time (R180) -/

/-- R180: the value at which the clock stops. -/
def maxStationTime : Nat := 4294967295

/-! ## The command port's answer (R177, R178) -/

/-- R177: the first length check that a frame with the given layout length fails. -/
def frameFault (f : FrameLen) (layout : Nat) : Option FrameFault :=
  if f.received < f.declared.toNat then some .short
  else if f.declared.toNat < f.received then some .long
  else if f.declared.toNat ≠ layout then some .layout
  else none

/-- What the owning block answers: a result code and the fields its rule names. -/
structure Answer where
  code : ResultCode
  body : Body
  deriving DecidableEq, Repr

/-- R186: the filler shifted out while `n` bytes come in. -/
def filler (n : Nat) : List Byte := List.replicate n 0xFF

/-- R178: a response is placed in the buffer, replacing one not read; the command transaction is over (R176), and filler has
been shifted out for its length byte and for the `n` bytes received after it. -/
def respond (n : Nat) (r : Response) (s : State) : State :=
  { s with host := { s.host with buffer := some r, reception := .idle, sdo := filler (n + 1) } }

/-- R177: a completed frame of a verb: its length is checked against the layout, then the owning block takes the verb
at the same event and its answer is placed in the buffer. -/
def takeVerb (f : FrameLen) (layout : Nat) (code : Byte) (block : State → State × Answer) (s : State) : State :=
  match frameFault f layout with
  | some k => respond f.received ⟨.badField, code, .frameFault k⟩ s
  | none => respond f.received ⟨(block s).2.code, code, (block s).2.body⟩ (block s).1

/-- A refusal: the records stand as the verb found them (R179). -/
def refuse (code : ResultCode) (body : Body) (s : State) : State × Answer := (s, ⟨code, body⟩)

/-- R184: while RST_N is asserted the part is held at its reset values and takes no event. -/
def live (f : State → State) (s : State) : Host.Outcome State Fault Refusal :=
  .next (if s.inReset then s else f s)

/-- R184: the command port ignores a transaction while RST_N is asserted, and to its end one that began before or during
that; otherwise it takes the transaction that ends (notes/assumptions/36.md). -/
def transacted (f : State → State) (s : State) : Host.Outcome State Fault Refusal :=
  .next (if s.inReset || s.host.ignoring then { s with host := { s.host with ignoring := false } } else f s)

/-! ## Time on an idle step (notes/assumptions/2.md) -/

/-- A port timer one millisecond later; its end is a command of its own. -/
def PortTimer.tick : PortTimer → PortTimer
  | .powerGoodWait n => .powerGoodWait (n - 1)
  | .fixedDelay n => .fixedDelay (n - 1)
  | .holdOff n => .holdOff (n - 1)

/-- One millisecond passes: every running timer has one millisecond less left, and nothing else changes. -/
def tick (s : State) : State :=
  { s with
    ports := mapTable (fun _ (r : Port) => { r with timer := r.timer.map PortTimer.tick }) s.ports
    bus := { s.bus with cycleLeft := s.bus.cycleLeft.map (· - 1) }
    carriage := { s.carriage with moveLeft := s.carriage.moveLeft.map (· - 1) }
    meter := { s.meter with exposureLeft := s.meter.exposureLeft.map (· - 1) } }

end Sys2Proof.Machine
end

