-- ==== Sys2Proof/Machine/Operands.lean ====
section
/-! DEFINITION. How a verb's raw fields are read: an enumerated value is the position in the list where its field is
defined (R186), and the ranges are those of R1, R42, R60, R79, R100, R143, R153 and R154. -/

namespace Sys2Proof.Machine

/-- R1: expected kind, by position. -/
def headKindOf (b : Byte) : Option HeadKind :=
  match b.toNat with
  | 0 => some .shaft
  | 1 => some .pressure
  | 2 => some .radar
  | _ => none

/-- R188: the kind code a head reports. -/
def reportedKind (code : Byte) : Option HeadKind :=
  match code.toNat with
  | 1 => some .shaft
  | 2 => some .pressure
  | 3 => some .radar
  | _ => none

/-- R1: power-good mode, by position. -/
def pgModeOf (b : Byte) : Option PgMode :=
  match b.toNat with
  | 0 => some .input
  | 1 => some .fixed100
  | 2 => some .fixed250
  | 3 => some .fixed500
  | _ => none

/-- R99: subject, by position. -/
def subjectOf (b : Byte) : Option Subject :=
  match b.toNat with
  | 0 => some .stage
  | 1 => some .discharge
  | 2 => some .rise
  | _ => none

/-- R99: watch direction, by position. -/
def watchDirectionOf (b : Byte) : Option WatchDirection :=
  match b.toNat with
  | 0 => some .above
  | 1 => some .below
  | _ => none

/-- R99: on-loss, by position. -/
def onLossOf (b : Byte) : Option OnLoss :=
  match b.toNat with
  | 0 => some .hold
  | 1 => some .raise
  | _ => none

/-- R186: set or clear, read as 1 or 0 (DESIGN CHOICE, notes/assumptions/59.md); another byte names no value (R179). -/
def flagOf (b : Byte) : Option Bool :=
  match b.toNat with
  | 0 => some false
  | 1 => some true
  | _ => none

/-- R153: gauging direction, by position. -/
def gaugingDirectionOf (b : Byte) : Option GaugingDirection :=
  match b.toNat with
  | 0 => some .fromStart
  | 1 => some .fromEnd
  | _ => none

/-- R153: method, by position. -/
def methodOf (b : Byte) : Option Method :=
  match b.toNat with
  | 0 => some .sixTenths
  | 1 => some .twoPoint
  | 2 => some .threePoint
  | 3 => some .surface
  | _ => none

/-- R187: a vertical's method, where 4 is DEFAULT and takes the method default (R156). -/
def verticalMethodOf (dflt : Method) (b : Byte) : Option Method :=
  if b.toNat = 4 then some dflt else methodOf b

/-- Stage, in range (the Conventions). -/
def stageOk (h : Int) : Bool := inRange (-2000) 30000 h

/-- R79: a shift, in range. -/
def shiftOk (v : Int) : Bool := inRange (-2000) 2000 v

/-- R100: the range of a subject's threshold and release. -/
def operandOk : Subject → Int → Bool
  | .stage, v => inRange (-2000) 30000 v
  | .discharge, v => inRange 0 20000000 v
  | .rise, v => inRange (-100000) 100000 v

/-- R101: the release lies strictly on the quiet side of the threshold. -/
def quietSide : WatchDirection → Int → Int → Bool
  | .above, threshold, release => decide (release < threshold)
  | .below, threshold, release => decide (threshold < release)

/-- R143: the first rating field, in the order of R145, that lies outside its range. -/
def MeterRating.firstBad (r : MeterRating) : Option MeterField :=
  if r.p < 1 ∨ 10 < r.p then some .p
  else if 100 < r.a1 then some .a1
  else if r.b1 < 1 ∨ 2000 < r.b1 then some .b1
  else if 100000 < r.nb then some .nb
  else if 100 < r.a2 then some .a2
  else if r.b2 < 1 ∨ 2000 < r.b2 then some .b2
  else none

end Sys2Proof.Machine
end

