-- ==== Sys2Proof/Machine/Selector.lean ====
section
/-! DEFINITION. The stage selector (chapter 3): candidates and their order, the settling of the source, the grade of the
sample, the trend, and the verbs STAGE_POLICY, STAGE_READ, OBSERVER_ENTRY and RESELECT. -/

namespace Sys2Proof.Machine

/-- R34: a reading record of a round's result. -/
structure ReadingRecord where
  port : Fin 4
  raw : Option Int
  head : Option HeadStatus
  valid : Bool
  silent : Bool
  deriving DecidableEq, Repr

/-- R46: a candidate with the keys it is ranked by. -/
structure Candidate where
  src : Source
  cls : Nat
  degraded : Bool
  kind : Nat
  stage : Int
  deriving DecidableEq, Repr

/-- The place of an identity among P0 to P3 and OBSERVER (R40, R186). -/
def Source.index : Source → Fin 5
  | .port p => ⟨p.val, Nat.lt_succ_of_lt p.isLt⟩
  | .observer => 4

/-- R46, key 3: SHAFT, then PRESSURE, then RADAR (OBSERVER comes after them as 3). -/
def HeadKind.order : HeadKind → Nat
  | .shaft => 0
  | .pressure => 1
  | .radar => 2

/-- R42: the stage a raw reading stands for, by the port's expected kind and datum offset. -/
def convertedStage (r : Port) (raw : Int) : Int :=
  match r.kind with
  | .shaft | .pressure => raw + r.datum
  | .radar => r.datum - raw

/-- R42: the disposition of a port from its reading record, if the round gave one. -/
def disposition (r : Port) : Option ReadingRecord → Disposition
  | none => .notRead
  | some rec =>
    if rec.silent then .silent
    else match rec.raw with
      | none => .missed
      | some raw =>
        if rec.head = some .failed then .failed
        else if stageOk (convertedStage r raw) then .candidate (convertedStage r raw)
        else .outOfRange (convertedStage r raw)

/-- The reading record a round gave for a port. -/
def recordOf (recs : List ReadingRecord) (p : Fin 4) : Option ReadingRecord := recs.find? fun rec => rec.port == p

/-- R42: every port's disposition at a close. -/
def dispositionsOf (ports : Vector Port 4) (recs : List ReadingRecord) : Vector Disposition 4 :=
  Vector.ofFn fun p => disposition (ports.get p) (recordOf recs p)

/-- R44: whether an observer entry is fresh at a station time. -/
def freshAt (t : Nat) (e : ObserverEntry) : Bool := decide (e.time ≤ t) && decide (t ≤ e.time + 1800)

/-- R45: the candidate a port makes at a close, if it makes one. -/
def portCandidate (ports : Vector Port 4) (recs : List ReadingRecord) (p : Fin 4) : Option Candidate :=
  match disposition (ports.get p) (recordOf recs p) with
  | .candidate h =>
    some { src := .port p, cls := (ports.get p).cls,
           degraded := (recordOf recs p).any fun rec => rec.head == some .degraded,
           kind := (ports.get p).kind.order, stage := h }
  | .notRead | .silent | .missed | .failed | .outOfRange _ => none

/-- R44: the candidate a fresh observer entry makes. -/
def observerCandidate (t : Nat) (sel : Selector) : Option Candidate :=
  match sel.observerEntry with
  | some e =>
    if freshAt t e then
      some { src := .observer, cls := sel.observerClass, degraded := false, kind := 3, stage := e.stage }
    else none
  | none => none

/-- R45: the candidate set of a close. -/
def candidatesAt (t : Nat) (ports : Vector Port 4) (recs : List ReadingRecord) (sel : Selector) : List Candidate :=
  (List.finRange 4).filterMap (portCandidate ports recs) ++ (observerCandidate t sel).toList

/-- R46: whether one candidate ranks above another: class, then not degraded, then kind, then port number. -/
def ranksAbove (a b : Candidate) : Bool :=
  if a.cls ≠ b.cls then decide (a.cls < b.cls)
  else if a.degraded ≠ b.degraded then !a.degraded
  else if a.kind ≠ b.kind then decide (a.kind < b.kind)
  else decide (a.src.index < b.src.index)

/-- R46: the best-ranked of a list of candidates. -/
def bestOf : List Candidate → Option Candidate
  | [] => none
  | c :: cs =>
    match bestOf cs with
    | none => some c
    | some d => if ranksAbove d c then some d else some c

/-- The candidate of an identity, if it is one at this close. -/
def candidateOf (cands : List Candidate) (src : Source) : Option Candidate := cands.find? fun c => c.src == src

/-- R46: the rank of an identity at a close, from 1 for the best; 0 when it is not a candidate. -/
def rankOf (cands : List Candidate) (src : Source) : Nat :=
  match candidateOf cands src with
  | some c => (cands.filter fun d => ranksAbove d c).length + 1
  | none => 0

/-- The identities in the order P0 to P3, OBSERVER. -/
def sourceAt (i : Fin 5) : Source := if h : i.val < 4 then .port ⟨i.val, h⟩ else .observer

/-- R47: whether an identity is a candidate that ranks above the current source, the source being a candidate. -/
def outranksSource (cands : List Candidate) (current : Option Source) (src : Source) : Bool :=
  match current.bind (candidateOf cands), candidateOf cands src with
  | some c, some d => ranksAbove d c
  | _, _ => false

/-- R47: the lead counts as they stand before the source is settled. -/
def leadsAt (cands : List Candidate) (sel : Selector) : Vector Nat 5 :=
  mapTable (fun i n => if outranksSource cands sel.source (sourceAt i) then saturatingSucc 255 n else 0) sel.leads

/-- R48: the candidates that have led for the return delay. -/
def overdue (cands : List Candidate) (sel : Selector) : List Candidate :=
  cands.filter fun d =>
    outranksSource cands sel.source d.src && decide (sel.returnDelay ≤ (leadsAt cands sel).get d.src.index)

/-- R48, R49: the current source after the close. -/
def settledSource (cands : List Candidate) (sel : Selector) : Option Source :=
  if sel.reselect then (bestOf cands).map (·.src)
  else match sel.source.bind (candidateOf cands) with
    | none => (bestOf cands).map (·.src)
    | some c =>
      match bestOf (overdue cands sel) with
      | some d => some d.src
      | none => some c.src

/-- R47: the lead counts after the close: all 0 when the source changed. -/
def settledLeads (cands : List Candidate) (sel : Selector) : Vector Nat 5 :=
  if settledSource cands sel = sel.source then leadsAt cands sel else Vector.replicate 5 0

/-- R51: the candidate the source is compared with: the best-ranked other than the source. -/
def comparedAt (cands : List Candidate) (src : Source) : Option Candidate := bestOf (cands.filter fun c => c.src != src)

/-- R51: GOOD or SUSPECT, by agreement with the candidate compared with. -/
def gradeOf (limit : Nat) (c : Candidate) : Option Candidate → Quality
  | none => .good
  | some d => if (limit : Int) < (c.stage - d.stage).natAbs then .suspect else .good

/-- R53: the instantaneous rate between two good samples. -/
def instantRate (h hPrev : Int) (t tPrev : Nat) : Int :=
  if t ≤ tPrev then 0 else halfAway ((h - hPrev) * 3600) (t - tPrev)

/-- R53: the filtered rise rate. -/
def filteredRise (r inst : Int) (k : Nat) : Int := clampInt (-100000) 100000 (r + halfAway (inst - r) (2 ^ k))

/-- R53: the rise rate after a close graded GOOD or SUSPECT. -/
def riseAt (h : Int) (t : Nat) (sel : Selector) : Int :=
  match sel.primed, sel.hPrev, sel.tPrev with
  | true, some h0, some t0 => filteredRise sel.rise (instantRate h h0 t t0) sel.filterShift
  | _, _, _ => 0

/-- R51, R53, R54, R56: the record after a close whose source is the candidate `c`. -/
def closeUsable (t : Nat) (cands : List Candidate) (c : Candidate) (sel : Selector) : Selector :=
  let other := comparedAt cands c.src
  let q := gradeOf sel.disagreementLimit c other
  { sel with
    comparedWith := other.map fun d => (d.src, d.stage)
    heldStage := some c.stage
    anchor := some t
    rise := riseAt c.stage t sel
    primed := true
    hPrev := some c.stage
    tPrev := some t
    lastSource := some c.src
    lastSample := some
      { time := t, stage := some c.stage, quality := q, source := some c.src,
        rise := some (riseAt c.stage t sel), disagree := q == .suspect,
        sourceChanged := sel.lastSource.any fun src => src != c.src } }

/-- R52: whether the held stage still stands at a close with no candidate. -/
def holdStands (t : Nat) (sel : Selector) : Bool :=
  match sel.heldStage, sel.anchor with
  | some _, some a => decide ((t : Int) - a ≤ sel.holdLimit * 60)
  | _, _ => false

/-- R52, R53, R54: the record after a close with no candidate. -/
def closeEmpty (t : Nat) (sel : Selector) : Selector :=
  if holdStands t sel then
    { sel with
      comparedWith := none
      lastSample := some
        { time := t, stage := sel.heldStage, quality := .held, source := none, rise := none,
          disagree := false, sourceChanged := false } }
  else
    { sel with
      comparedWith := none
      heldStage := none
      primed := false
      rise := 0
      lastSample := some
        { time := t, stage := none, quality := .lost, source := none, rise := none,
          disagree := false, sourceChanged := false } }

/-- R41, steps 1 to 4: dispositions, ranks, lead counts and source of a close. -/
def closeSource (t : Nat) (ports : Vector Port 4) (recs : List ReadingRecord) (sel : Selector) : Selector :=
  let cands := candidatesAt t ports recs sel
  { sel with
    dispositions := dispositionsOf ports recs
    ranks := Vector.ofFn fun i => rankOf cands (sourceAt i)
    leads := settledLeads cands sel
    source := settledSource cands sel
    reselect := false }

/-- R41: the selector's record after it has taken a round's result at station time `t`. -/
def closeSelector (t : Nat) (ports : Vector Port 4) (recs : List ReadingRecord) (sel : Selector) : Selector :=
  let cands := candidatesAt t ports recs sel
  match (settledSource cands sel).bind (candidateOf cands) with
  | some c => closeUsable t cands c (closeSource t ports recs sel)
  | none => closeEmpty t (closeSource t ports recs sel)

/-- R57: the quality that counts as the previous sample's. -/
def Selector.previousQuality (sel : Selector) : Quality :=
  match sel.lastSample with
  | some x => x.quality
  | none => .lost

/-! ## Verbs -/

/-- R50: STAGE_POLICY. -/
def stagePolicy (observerClass returnDelay : Byte) (disagreement : Half) (holdLimit filterShift : Byte) (s : State) :
    State × Answer :=
  if observerClass.toNat < 1 ∨ 4 < observerClass.toNat then refuse .badField .nil s
  else
    let d := clampNat 1 255 returnDelay.toNat
    let g := clampNat 1 1000 disagreement.toNat
    let h := clampNat 0 240 holdLimit.toNat
    let k := clampNat 0 6 filterShift.toNat
    ({ s with selector := { s.selector with
        observerClass := observerClass.toNat, returnDelay := d, disagreementLimit := g, holdLimit := h, filterShift := k } },
      ⟨.ok, .policy observerClass.toNat d g h k⟩)

/-- R58: STAGE_READ. -/
def stageRead (s : State) : State × Answer :=
  (s, ⟨.ok, .selector s.selector (s.selector.observerEntry.any (freshAt s.host.time))⟩)

/-- R43: OBSERVER_ENTRY. -/
def observerEntry (stage : Half) (entryTime : Word) (s : State) : State × Answer :=
  if !stageOk stage.toInt then refuse .badField .nil s
  else if s.host.clockUnset then refuse .wrongState .nil s
  else
    let e : ObserverEntry := { stage := stage.toInt, time := entryTime.toNat }
    ({ s with selector := { s.selector with observerEntry := some e } }, ⟨.ok, .observer e (freshAt s.host.time e)⟩)

/-- R49: RESELECT. -/
def reselect (s : State) : State × Answer :=
  ({ s with selector := { s.selector with reselect := true } }, ⟨.ok, .nil⟩)

/-- The meaning of STAGE_POLICY. -/
def execStagePolicy (f : FrameLen) (observerClass returnDelay : Byte) (disagreement : Half) (holdLimit filterShift : Byte)
    (s : State) : Host.Outcome State Fault Refusal :=
  transacted (takeVerb f 7 0x20 (stagePolicy observerClass returnDelay disagreement holdLimit filterShift)) s

/-- The meaning of STAGE_READ. -/
def execStageRead (f : FrameLen) (s : State) : Host.Outcome State Fault Refusal := transacted (takeVerb f 1 0x21 stageRead) s

/-- The meaning of OBSERVER_ENTRY. -/
def execObserverEntry (f : FrameLen) (stage : Half) (entryTime : Word) (s : State) : Host.Outcome State Fault Refusal :=
  transacted (takeVerb f 7 0x22 (observerEntry stage entryTime)) s

/-- The meaning of RESELECT. -/
def execReselect (f : FrameLen) (s : State) : Host.Outcome State Fault Refusal := transacted (takeVerb f 1 0x23 reselect) s

end Sys2Proof.Machine
end

