-- ==== Sys2Proof/Machine/Meter.lean ====
section
/-! DEFINITION. The meter counter (chapter 8): the pulse input, the exposure and its point result, and METER_CONFIG. -/

namespace Sys2Proof.Machine

/-! ## The exposure (R146 to R151) -/

/-- R146: the answers to a request to start an exposure. -/
inductive StartAnswer where
  | started | noMeterRating | busy
  deriving DecidableEq, Repr

/-- R146: what the counter answers to a request to start. -/
def Meter.startAnswer (m : Meter) : StartAnswer :=
  if m.exposing then .busy else if m.rating.isNone then .noMeterRating else .started

/-- R146: the counter after a request to start. -/
def Meter.afterStart (m : Meter) : Meter :=
  match m.startAnswer with
  | .started =>
    { m with
      exposing := true, count := 0, saturated := false, taken := some m.exposureTime
      exposureLeft := some (m.exposureTime * 1000) }
  | .noMeterRating | .busy => m

/-- R151: the counter after a request to abandon the exposure. -/
def Meter.abandon (m : Meter) : Meter :=
  if m.exposing then
    { m with exposing := false, exposureLeft := none, count := 0, saturated := false, taken := none,
             lastOutcome := .abandoned }
  else m

/-- R144, R147: the counter after a count event. -/
def Meter.countEvent (m : Meter) : Meter :=
  let seen := { m with inputHigh := true, pulses := (m.pulses + 1) % 65536 }
  if !m.exposing then seen
  else if m.count < 65535 then { seen with count := m.count + 1 }
  else { seen with saturated := true }

/-- R149: the revolution rate in milli-rev/s. -/
def revolutionRate (count p taken : Nat) : Nat := halfUp (count * 1000000) (p * (taken * 1000))

/-- R150: the segment that gives the velocity of a turning meter. -/
def meterSegment (r : MeterRating) (n : Nat) : Nat := if n < r.nb then 1 else 2

/-- R150: the velocity of a turning meter before its limit. -/
def meterVelocity (r : MeterRating) (n : Nat) : Nat :=
  if n < r.nb then r.a1 + halfUp (r.b1 * n) 1000 else r.a2 + halfUp (r.b2 * n) 1000

/-- R150: the point result of a count over an exposure. -/
def pointResult (r : MeterRating) (count taken : Nat) (saturated : Bool) : PointResult :=
  let n := revolutionRate count r.p taken
  if count = 0 then
    { count := count, taken := taken, rate := n, segment := none, velocity := 0, still := true,
      countSaturated := saturated, velocityLimited := false }
  else
    { count := count, taken := taken, rate := n, segment := some (meterSegment r n),
      velocity := min (meterVelocity r n) 10000, still := false, countSaturated := saturated,
      velocityLimited := decide (10000 < meterVelocity r n) }

/-- R148: the point result of the exposure in flight, when one is and its rating and time are held. -/
def Meter.result (m : Meter) : Option PointResult :=
  match m.exposing, m.rating, m.taken with
  | true, some r, some t => some (pointResult r m.count t m.saturated)
  | _, _, _ => none

/-- R148: the counter after the exposure timer has expired with a point result. -/
def Meter.finish (m : Meter) (x : PointResult) : Meter :=
  { m with lastResult := some x, lastOutcome := .done, exposing := false, exposureLeft := none }

/-! ## Verb (R145) -/

/-- R145: METER_CONFIG. -/
def meterConfig (exposure p a1 : Byte) (b1 : Half) (nb : Word) (a2 : Byte) (b2 : Half) (s : State) : State × Answer :=
  let r : MeterRating :=
    { p := p.toNat, a1 := a1.toNat, b1 := b1.toNat, nb := nb.toNat, a2 := a2.toNat, b2 := b2.toNat }
  let e := clampNat 20 120 exposure.toNat
  match r.firstBad with
  | some k => refuse .badField (.meter s.meter (some k)) s
  | none =>
    if s.meter.exposing ∧ (e ≠ s.meter.exposureTime ∨ some r ≠ s.meter.rating) then
      refuse .busy (.meter s.meter none) s
    else
      let m := { s.meter with exposureTime := e, rating := some r }
      ({ s with meter := m }, ⟨.ok, .meter m none⟩)

/-- The meaning of METER_CONFIG. -/
def execMeterConfig (f : FrameLen) (exposure p a1 : Byte) (b1 : Half) (nb : Word) (a2 : Byte) (b2 : Half) (s : State) :
    Host.Outcome State Fault Refusal :=
  transacted (takeVerb f 13 0x54 (meterConfig exposure p a1 b1 nb a2 b2)) s

/-- The meaning of COUNT_EVENT (R144, R147). -/
def execCountEvent (s : State) : Host.Outcome State Fault Refusal :=
  live (fun s => { s with meter := s.meter.countEvent }) s

/-- The meaning of METER_INPUT_FALL (R144): only the input level changes. -/
def execMeterInputFall (s : State) : Host.Outcome State Fault Refusal :=
  live (fun s => { s with meter := { s.meter with inputHigh := false } }) s

end Sys2Proof.Machine
end

