-- ==== Sys2Proof/Machine/Carriage.lean ====
section
/-! DEFINITION. The carriage (chapter 7): handing commands to the winch link, HOLD, the steps of a sounding, the requests of
the gauging unit, the return sequence and the stops. The events of the link and the inputs stand in Cableway.lean. -/

namespace Sys2Proof.Machine

/-- R132: the full depth of the hoist. -/
def fullHoist : Nat := 30000

/-- R120: the longest cableway. -/
def maxDistance : Nat := 300000

/-- The target after a command is handed to the link: a distance or hoist depth for a move that carries one. -/
def targetAfter (old : Option Target) : WinchCommand → Option Target
  | .traverseTo d => some (.distance d)
  | .hoistTo h => some (.hoist h)
  | .home => none
  | .halt => old

/-- R123: a command is handed to the link, behind those not yet sent. -/
def Carriage.hand (cmd : WinchCommand) (c : Carriage) : Carriage :=
  { c with
    wtx := c.wtx ++ [⟨c.nextSerial, cmd⟩]
    nextSerial := c.nextSerial + 1
    target := targetAfter c.target cmd }

/-- R128, R129: a command is handed to the link and becomes the awaited command; a pending move is cleared, and the
move timer stands stopped until the command is sent. -/
def Carriage.await (cmd : WinchCommand) (c : Carriage) : Carriage :=
  { c.hand cmd with awaited := some ⟨c.nextSerial, cmd⟩, pendingMove := none, moveLeft := none }

/-- R128: a rule calls for a move: it is sent and awaited, or under HOLD it becomes the pending move. -/
def Carriage.callMove (cmd : WinchCommand) (c : Carriage) : Carriage :=
  if c.hold then { c with pendingMove := some cmd, awaited := none, moveLeft := none } else c.await cmd

/-- R140: what entering STOPPED does to the record. -/
def Carriage.stop (cause : StopCause) (c : Carriage) : Carriage :=
  { c with
    state := .stopped, stopCause := some cause, awaited := none, moveLeft := none
    pendingMove := none, onward := none, phase := .none }

/-- R140: the states from which a stop is reported to the gauging unit. -/
def CarriageState.reportsStop : CarriageState → Bool
  | .unhomed | .parked | .stopped => false
  | .homing | .traversing | .lowering | .sounding | .setting | .waitingMeter | .raising | .returning => true

/-- R135, R137: the states in which the carriage works on the cable. -/
def CarriageState.working : CarriageState → Bool
  | .traversing | .lowering | .sounding | .setting | .waitingMeter | .raising | .returning => true
  | .unhomed | .homing | .parked | .stopped => false

/-- R141, R134: the carriage record is written; a change of state, of stop cause or of the HOLD level sets CABLEWAY, and
leaving WAITING_METER asks the meter counter to abandon the exposure (R151). -/
def putCarriage (c : Carriage) (s : State) : State :=
  addMemberIf (s.carriage.state != c.state || s.carriage.stopCause != c.stopCause || s.carriage.hold != c.hold) .cableway
    { s with
      carriage := c
      meter := if s.carriage.state = .waitingMeter ∧ c.state ≠ .waitingMeter then s.meter.abandon else s.meter }

/-! ## Lowering and sounding (R132 to R134) -/

/-- R133, R134: the carriage enters SOUNDING; with the bed contact asserted the sounding ends at once with depth 0. -/
def Carriage.enterSounding (c : Carriage) : Carriage :=
  if c.bedContact then
    { c with
      state := .sounding, phase := .atBed, bedHoist := c.surfaceHoist, soundedDepth := some 0
      awaited := none, moveLeft := none }
  else Carriage.callMove (.hoistTo fullHoist) { c with state := .sounding, phase := .payingOut }

/-- R132: the carriage enters LOWERING; with the surface contact asserted the surface is taken as reached at once. -/
def Carriage.enterLowering (c : Carriage) : Carriage :=
  let c0 := { c with
    state := .lowering, phase := .payingOut, surfaceHoist := none, bedHoist := none, soundedDepth := none
    awaited := none, moveLeft := none }
  if c.surfaceContact then Carriage.enterSounding { c0 with surfaceHoist := c.hoist }
  else c0.callMove (.hoistTo fullHoist)

/-- R134: the sounded depth from the two hoists, 0 when the bed hoist is the lower. -/
def soundedDepthOf (surface bed : Option Nat) : Nat := bed.getD 0 - surface.getD 0

/-- R134: the sounding ends at the bed with the HALT answered. -/
def Carriage.endSounding (c : Carriage) : Carriage :=
  { c with
    phase := .atBed, bedHoist := c.hoist, soundedDepth := some (soundedDepthOf c.surfaceHoist c.hoist)
    awaited := none, moveLeft := none }

/-- R134: whether the weight rests on the bed with the sounding ended. -/
def Carriage.atBed (c : Carriage) : Bool := c.state == .sounding && c.phase == .atBed

/-! ## Requests of the gauging unit (R131) -/

/-- R131: whether a VISIT to a distance is taken. -/
def Carriage.takesVisit (demand : Bool) (d : Nat) (c : Carriage) : Bool :=
  c.state == .parked && !demand && decide (d ≤ maxDistance)

/-- R131: whether a SET is taken. -/
def Carriage.takesSet (demand : Bool) (c : Carriage) : Bool := (c.atBed || c.state == .waitingMeter) && !demand

/-- R131: whether a MOVE_ON to a distance is taken. -/
def Carriage.takesMoveOn (demand : Bool) (d : Nat) (c : Carriage) : Bool := c.takesSet demand && decide (d ≤ maxDistance)

/-- R132: the carriage sets out toward a distance. -/
def Carriage.traverse (d : Nat) (c : Carriage) : Carriage :=
  Carriage.callMove (.traverseTo d) { c with state := .traversing, phase := .moving }

/-- R134: the hoist target of a SET, not beyond the bed hoist. -/
def Carriage.setTarget (depth offset : Nat) (c : Carriage) : Nat :=
  let t := c.surfaceHoist.getD 0 + depth + offset
  match c.bedHoist with
  | some b => min t b
  | none => t

/-- R134: the carriage enters SETTING toward a meter depth. -/
def Carriage.setMeter (depth offset : Nat) (c : Carriage) : Carriage :=
  Carriage.callMove (.hoistTo (c.setTarget depth offset)) { c with state := .setting, phase := .none }

/-- R135: the carriage enters RAISING, with what follows it. -/
def Carriage.raise (next : Onward) (c : Carriage) : Carriage :=
  Carriage.callMove (.hoistTo 0) { c with state := .raising, phase := .none, onward := some next }

/-- R135: the return sequence is entered. -/
def Carriage.enterReturn (c : Carriage) : Carriage :=
  match c.state with
  | .traversing =>
    if c.phase = .stopping then { c with onward := some .home }
    else if c.pendingMove.isSome then Carriage.raise .home { c with pendingMove := none }
    else Carriage.await .halt { c with phase := .stopping }
  | .lowering | .sounding | .setting | .waitingMeter => c.raise .home
  | .raising => { c with onward := some .home }
  | .unhomed | .homing | .parked | .returning | .stopped => c

/-- A VISIT asked of the cableway controller; a refusal changes nothing. -/
def askVisit (d : Nat) (s : State) : State :=
  if s.carriage.takesVisit s.watches.demand d then putCarriage (s.carriage.traverse d) s else s

/-- A SET asked of the cableway controller. -/
def askSet (depth offset : Nat) (s : State) : State :=
  if s.carriage.takesSet s.watches.demand then putCarriage (s.carriage.setMeter depth offset) s else s

/-- A MOVE_ON asked of the cableway controller. -/
def askMoveOn (d : Nat) (s : State) : State :=
  if s.carriage.takesMoveOn s.watches.demand d then putCarriage (s.carriage.raise (.distance d)) s else s

/-- A RETURN asked of the cableway controller. -/
def askReturn (s : State) : State :=
  if s.carriage.state.working then putCarriage s.carriage.enterReturn s else s

/-- R137: the cableway controller takes a withdraw rise. -/
def carriageWithdraw (s : State) : State :=
  if s.carriage.state.working then putCarriage s.carriage.enterReturn s else s

end Sys2Proof.Machine
end

