-- ==== Sys2Proof/Machine/Discharge.lean ====
section
/-! DEFINITION. The arithmetic of chapter 5 (effective shift, discharge of a shifted stage, the inverse), the flow sample
the discharge unit publishes, and FLOW_READ. -/

namespace Sys2Proof.Machine

/-- R92: the greatest discharge of the device. -/
def maxDischarge : Nat := 20000000

/-- R88: the effective shift of a list, earliest record first, at a station time. -/
def effectiveShift : List Shift → Nat → Int
  | [], _ => 0
  | [x], _ => x.shift
  | x :: y :: rest, t =>
    if t ≤ x.time then x.shift
    else if t < y.time then x.shift + halfAway ((y.shift - x.shift) * ((t - x.time : Nat) : Int)) (y.time - x.time)
    else effectiveShift (y :: rest) t

/-- R89 to R92: a discharge with its flags. -/
structure RatedFlow where
  discharge : Nat
  below : Bool
  extrapolated : Bool
  clamped : Bool
  deriving DecidableEq, Repr

/-- R90, R91: the rise of discharge from `a` along the segment from `a` to `b`, over a stage difference. -/
def segmentStep (a b : Point) (dh : Int) : Nat :=
  halfUp ((b.discharge - a.discharge) * dh.toNat) (b.stage - a.stage).toNat

/-- R90: the discharge at a shifted stage above the first point and not above the last. -/
def interpolated : List Point → Int → Nat
  | a :: b :: rest, h =>
    if h ≤ b.stage then
      if h = b.stage then b.discharge else a.discharge + segmentStep a b (h - a.stage)
    else interpolated (b :: rest) h
  | _, _ => 0

/-- R91: the last segment of a rating. -/
def lastSegment : List Point → Option (Point × Point)
  | [a, b] => some (a, b)
  | _ :: b :: c :: rest => lastSegment (b :: c :: rest)
  | _ => none

/-- R91: the discharge on the last segment extended from its upper end. -/
def extendedAt (a z : Point) (h : Int) : Nat :=
  z.discharge + halfUp ((z.discharge - a.discharge) * (h - z.stage).toNat) (z.stage - a.stage).toNat

/-- R89 to R92: the discharge a rating gives at a shifted stage. A list of fewer than two points, which no sealed rating
holds (R66), gives 0 (notes/assumptions/32.md). -/
def dischargeAt (points : List Point) (allowance : Nat) (h : Int) : RatedFlow :=
  match points.head?, lastSegment points with
  | some first, some (a, z) =>
    if h < first.stage then ⟨0, true, false, false⟩
    else if h = first.stage then ⟨first.discharge, false, false, false⟩
    else if h ≤ z.stage then ⟨interpolated points h, false, false, false⟩
    else
      let ceiling := z.stage + allowance
      let q := extendedAt a z (if h ≤ ceiling then h else ceiling)
      ⟨min q maxDischarge, false, true, decide (ceiling < h) || decide (maxDischarge < q)⟩
  | _, _ => ⟨0, false, false, false⟩

/-- R95: the answer to a rated request: the discharge with its flags, and the effective shift. -/
structure RatedAnswer extends RatedFlow where
  effShift : Int
  deriving DecidableEq, Repr

/-- R95: a rated request: the discharge at a stage and a time under a rating, the effective shift, and the flags. -/
def ratedRequest (points : List Point) (allowance : Nat) (shifts : List Shift) (h : Int) (t : Nat) : RatedAnswer :=
  let s := effectiveShift shifts t
  { toRatedFlow := dischargeAt points allowance (h + s), effShift := s }

/-- R96, R97: the answer to an inverse request. -/
structure InverseAnswer where
  stage : Option Int
  below : Bool
  extrapolated : Bool
  clamped : Bool
  deriving DecidableEq, Repr

/-- R96: the stage on the pair of neighbouring points that straddles a discharge. -/
def straddled : List Point → Nat → Option Int
  | a :: b :: rest, q =>
    if a.discharge < q ∧ q < b.discharge then
      some (a.stage + halfUp ((q - a.discharge) * (b.stage - a.stage).toNat) (b.discharge - a.discharge))
    else straddled (b :: rest) q
  | _, _ => none

/-- R97: the answer for a discharge above the last point's. -/
def inverseAbove (a z : Point) (allowance q : Nat) : InverseAnswer :=
  if z.discharge ≤ a.discharge then ⟨none, false, false, true⟩
  else
    let h := z.stage + (halfUp ((q - z.discharge) * (z.stage - a.stage).toNat) (z.discharge - a.discharge) : Int)
    if h ≤ z.stage + allowance then ⟨some h, false, true, false⟩ else ⟨none, false, false, true⟩

/-- R96: an inverse request on the unshifted points. -/
def inverseRequest (points : List Point) (allowance q : Nat) : InverseAnswer :=
  match points.head?, lastSegment points with
  | some first, some (a, z) =>
    if q < first.discharge then ⟨none, true, false, false⟩
    else match points.find? fun x => x.discharge == q with
      | some x => ⟨some x.stage, false, false, false⟩
      | none =>
        match straddled points q with
        | some h => ⟨some h, false, false, false⟩
        | none => inverseAbove a z allowance q
  | _, _ => ⟨none, false, false, false⟩

/-! ## The flow sample -/

/-- R87, R93: a flow sample with no discharge. -/
def flowWithout (x : StageSample) (slot : Option (Fin 3)) (generation : Option Nat) (noRating : Bool) : FlowSample where
  sample := x
  discharge := none
  effShift := none
  slot := slot
  generation := generation
  below := false
  extrapolated := false
  clamped := false
  noRating := noRating

/-- R86, R87: the flow sample computed from a stage sample and the slot then in force. -/
def flowOf (store : RatingStore) (x : StageSample) : FlowSample :=
  match store.inForce with
  | none => flowWithout x none none true
  | some k =>
    let r := store.slots.get k
    match x.stage with
    | none => flowWithout x (some k) r.generation false
    | some h =>
      let q := ratedRequest r.points r.allowance r.shifts h x.time
      { sample := x, discharge := some q.discharge, effShift := some q.effShift, slot := some k,
        generation := r.generation, below := q.below, extrapolated := q.extrapolated, clamped := q.clamped,
        noRating := false }

/-! ## Verb -/

/-- R94: FLOW_READ. -/
def flowRead (s : State) : State × Answer := (s, ⟨.ok, .flow s.lastFlow⟩)

/-- The meaning of FLOW_READ. -/
def execFlowRead (f : FrameLen) (s : State) : Host.Outcome State Fault Refusal := transacted (takeVerb f 1 0x40 flowRead) s

end Sys2Proof.Machine
end

