-- ==== Sys2Proof/Machine/Ratings.lean ====
section
/-! DEFINITION. The rating store (chapter 4) and its shift lists (chapter 5): the evaluation at a stage sample, and the
verbs RATING_BEGIN to RATING_RETIRE and SHIFT_PUT, SHIFT_REMOVE, SHIFT_READ. -/

namespace Sys2Proof.Machine

/-- The state with one rating slot replaced. -/
def putSlot (k : Fin 3) (r : RatingSlot) (s : State) : State :=
  { s with ratings := { s.ratings with slots := putAt s.ratings.slots k r } }

/-! ## Taking into force (R67 to R70) -/

/-- R68: a READY slot whose effective time has come. -/
def eligible (t : Nat) (r : RatingSlot) : Bool := r.state == .ready && decide (r.effective ≤ t)

/-- R68: a slot that takes part in the contest. -/
def contests (t : Nat) (r : RatingSlot) : Bool := eligible t r || r.state == .inForce

/-- R68: whether the slot with the first key and record beats the other: later effective time, then higher generation,
then lower slot number. -/
def beats (i : Fin 3) (a : RatingSlot) (j : Fin 3) (b : RatingSlot) : Bool :=
  if a.effective ≠ b.effective then decide (b.effective < a.effective)
  else if a.generation.getD 0 ≠ b.generation.getD 0 then decide (b.generation.getD 0 < a.generation.getD 0)
  else decide (i < j)

/-- R68: whether a slot wins the contest: it takes part and no other contestant beats it. -/
def wins (t : Nat) (slots : Vector RatingSlot 3) (k : Fin 3) : Bool :=
  contests t (slots.get k) &&
    (List.finRange 3).all fun j => !(contests t (slots.get j) && beats j (slots.get j) k (slots.get k))

/-- R68: what the evaluation makes of a slot. -/
def evaluated (t : Nat) (slots : Vector RatingSlot 3) (k : Fin 3) (r : RatingSlot) : RatingSlot :=
  if wins t slots k then
    if r.state = .inForce then r else { r with state := .inForce, inForceSince := some t }
  else if contests t r then { r with state := .superseded, supersededAt := some t }
  else r

/-- R68: the store after its evaluation at station time `t`. -/
def evaluateStore (t : Nat) (st : RatingStore) : RatingStore :=
  if st.slots.toList.any (eligible t) then
    { st with
      inForce := (List.finRange 3).find? (wins t st.slots)
      slots := mapTable (evaluated t st.slots) st.slots }
  else st

/-- R69: whether an evaluation changes the state of a slot, which it does exactly when some slot is eligible. -/
def evaluationMoves (t : Nat) (st : RatingStore) : Bool := st.slots.toList.any (eligible t)

/-! ## Shift lists (R79 to R82) -/

/-- R81: how many records of a list are earlier than a time. -/
def shiftIndex (l : List Shift) (t : Nat) : Nat := (l.takeWhile fun x => decide (x.time < t)).length

/-- R81: whether a list holds a record with exactly a time. -/
def hasShiftAt (l : List Shift) (t : Nat) : Bool := l.any fun x => x.time == t

/-- R81: the list with a record replaced or inserted, and which of the two was done. -/
def shiftPlaced (l : List Shift) (x : Shift) : List Shift × ShiftWrite :=
  if hasShiftAt l x.time then (l.map fun y => if y.time = x.time then x else y, .replaced)
  else ((l.takeWhile fun y => decide (y.time < x.time)) ++ x :: l.dropWhile fun y => decide (y.time < x.time), .inserted)

/-- R80, R84: the write of a shift record into a slot, shared by SHIFT_PUT and an adoption: refused with BAD_FIELD for a
shift out of range and with FULL for a thirteenth record. -/
def writeShift (k : Fin 3) (x : Shift) (s : State) : State × Answer :=
  let r := s.ratings.slots.get k
  if !shiftOk x.shift then refuse .badField .nil s
  else if !hasShiftAt r.shifts x.time && decide (12 ≤ r.shifts.length) then refuse .full .nil s
  else
    let placed := shiftPlaced r.shifts x
    (putSlot k { r with shifts := placed.1 } s,
      ⟨.ok, .shiftWritten placed.2 (shiftIndex r.shifts x.time) placed.1.length⟩)

/-! ## Verbs of chapter 4 -/

/-- R62: RATING_BEGIN. Its response is the whole of RATING_READ's, the store fields before the slot record (DESIGN CHOICE,
notes/assumptions/46.md). -/
def ratingBegin (slot : Byte) (effective : Word) (allowance : Half) (s : State) : State × Answer :=
  match keyOf 3 slot with
  | none => refuse .badField .nil s
  | some k =>
    if 5000 < allowance.toNat then refuse .badField .nil s
    else if (s.ratings.slots.get k).state ≠ .empty then refuse .wrongState .nil s
    else
      let r := { RatingSlot.reset with state := .loading, effective := effective.toNat, allowance := allowance.toNat }
      (putSlot k r s, ⟨.ok, .rating s.ratings.nextGeneration s.ratings.inForce r 0⟩)

/-- R63: the point a frame's entry stands for. -/
def pointOf (x : PointField) : Point := { stage := x.stage.toInt, discharge := x.discharge.toNat }

/-- R63, check 5: the index of the frame's first point that fails, and the test it fails; `prev` is the stage of the
point before. -/
def firstBadPoint (prev : Option Int) (i : Nat) : List PointField → Option (Nat × PointTest)
  | [] => none
  | x :: rest =>
    if !stageOk (pointOf x).stage || decide (maxDischarge < (pointOf x).discharge) then some (i, .range)
    else if prev.any fun h => decide ((pointOf x).stage ≤ h) then some (i, .order)
    else firstBadPoint (some (pointOf x).stage) (i + 1) rest

/-- R63: the most points a rating holds. -/
def maxPoints : Nat := 48

/-- R63, R64: RATING_POINTS. -/
def ratingPoints (slot : Byte) (points : List PointField) (s : State) : State × Answer :=
  match keyOf 3 slot with
  | none => refuse .badField .nil s
  | some k =>
    let r := s.ratings.slots.get k
    match r.state with
    | .empty => refuse .noRecord .nil s
    | .ready | .inForce | .superseded => refuse .wrongState .nil s
    | .loading =>
      if points.length = 0 ∨ 8 < points.length then refuse .badField .nil s
      else match firstBadPoint (r.points.getLast?.map (·.stage)) 0 points with
        | some (i, test) => refuse .badField (.pointFailed i test) s
        | none =>
          if maxPoints < r.points.length + points.length then
            refuse .full (.pointsFull r.points.length (maxPoints - r.points.length)) s
          else
            let all := r.points ++ points.map pointOf
            (putSlot k { r with points := all } s,
              ⟨.ok, .pointsTaken all.length ((all.getLast?.map (·.stage)).getD 0) (maxPoints - all.length)⟩)

/-- R65: the index of the first point whose discharge is lower than that of the point before it. -/
def firstFall (i : Nat) : List Point → Option Nat
  | a :: b :: rest => if b.discharge < a.discharge then some (i + 1) else firstFall (i + 1) (b :: rest)
  | _ => none

/-- R65: the check detail of a point list that fails, if it fails. -/
def ratingCheck (points : List Point) : Option (CheckCause × Nat) :=
  if points.length < 2 then some (.tooFewPoints, points.length)
  else (firstFall 0 points).map fun i => (.qDecreasing, i)

/-- R61: the generation after one given. -/
def generationAfter (g : Nat) : Nat := if g = 65535 then 1 else g + 1

/-- R65, R66: RATING_FINISH. -/
def ratingFinish (slot : Byte) (s : State) : State × Answer :=
  match keyOf 3 slot with
  | none => refuse .badField .nil s
  | some k =>
    let r := s.ratings.slots.get k
    match r.state with
    | .empty => refuse .noRecord .nil s
    | .ready | .inForce | .superseded => refuse .wrongState .nil s
    | .loading =>
      match ratingCheck r.points with
      | some (cause, i) =>
        (putSlot k { r with checkDetail := some (cause, i) } s, ⟨.checkFailed, .checkDetail cause i⟩)
      | none =>
        let g := s.ratings.nextGeneration
        let sealed := { r with state := .ready, generation := some g, checkDetail := none }
        ({ s with ratings := { s.ratings with
            nextGeneration := generationAfter g, slots := putAt s.ratings.slots k sealed } },
          ⟨.ok, .sealed k g r.effective r.points.length⟩)

/-- R75, R76: RATING_READ. -/
def ratingRead (slot firstPoint : Byte) (s : State) : State × Answer :=
  match keyOf 3 slot with
  | none => refuse .badField .nil s
  | some k =>
    if 47 < firstPoint.toNat then refuse .badField .nil s
    else
      let r := s.ratings.slots.get k
      if r.state = .empty then refuse .noRecord (.ratingEmpty s.ratings.nextGeneration s.ratings.inForce r.state) s
      else (s, ⟨.ok, .rating s.ratings.nextGeneration s.ratings.inForce r firstPoint.toNat⟩)

/-- R173: whether any gauging is RUNNING or SUSPENDED. -/
def gaugingOpen (s : State) : Bool := s.gaugings.toList.any fun g => g.any fun x => x.state.isOpen

/-- R71, R72: RATING_RETIRE. -/
def ratingRetire (slot : Byte) (s : State) : State × Answer :=
  match keyOf 3 slot with
  | none => refuse .badField .nil s
  | some k =>
    match (s.ratings.slots.get k).state with
    | .empty => refuse .noRecord (.slotState .empty) s
    | .loading | .ready | .superseded => (putSlot k .reset s, ⟨.ok, .slotState .empty⟩)
    | .inForce =>
      if gaugingOpen s then refuse .wrongState (.slotState .inForce) s
      else
        (addMember .ratingSwap
          { s with ratings := { s.ratings with inForce := none, slots := putAt s.ratings.slots k .reset } },
          ⟨.ok, .slotState .empty⟩)

/-! ## Verbs of chapter 5 -/

/-- R80, R81: SHIFT_PUT. -/
def shiftPut (slot : Byte) (time : Word) (shift : Half) (s : State) : State × Answer :=
  match keyOf 3 slot with
  | none => refuse .badField .nil s
  | some k =>
    if !shiftOk shift.toInt then refuse .badField .nil s
    else if (s.ratings.slots.get k).state = .empty then refuse .noRecord .nil s
    else writeShift k { time := time.toNat, shift := shift.toInt } s

/-- R82: SHIFT_REMOVE. -/
def shiftRemove (slot : Byte) (time : Word) (s : State) : State × Answer :=
  match keyOf 3 slot with
  | none => refuse .badField .nil s
  | some k =>
    let r := s.ratings.slots.get k
    if r.state = .empty then refuse .noRecord .nil s
    else if !hasShiftAt r.shifts time.toNat then refuse .noRecord .nil s
    else
      let left := r.shifts.filter fun x => x.time != time.toNat
      (putSlot k { r with shifts := left } s, ⟨.ok, .shiftsHeld left.length⟩)

/-- R83: SHIFT_READ. -/
def shiftRead (slot : Byte) (s : State) : State × Answer :=
  match keyOf 3 slot with
  | none => refuse .badField .nil s
  | some k =>
    let r := s.ratings.slots.get k
    if r.state = .empty then refuse .noRecord .nil s
    else (s, ⟨.ok, .shifts r.state r.generation r.shifts (effectiveShift r.shifts s.host.time)⟩)

/-! ## Meanings -/

/-- The meaning of RATING_BEGIN. -/
def execRatingBegin (f : FrameLen) (slot : Byte) (effective : Word) (allowance : Half) (s : State) :
    Host.Outcome State Fault Refusal :=
  transacted (takeVerb f 8 0x30 (ratingBegin slot effective allowance)) s

/-- The meaning of RATING_POINTS; its layout length is worked out from the count (R187). -/
def execRatingPoints (f : FrameLen) (slot : Byte) (points : List PointField) (s : State) :
    Host.Outcome State Fault Refusal :=
  transacted (takeVerb f (3 + 6 * points.length) 0x31 (ratingPoints slot points)) s

/-- The meaning of RATING_FINISH. -/
def execRatingFinish (f : FrameLen) (slot : Byte) (s : State) : Host.Outcome State Fault Refusal :=
  transacted (takeVerb f 2 0x32 (ratingFinish slot)) s

/-- The meaning of RATING_READ. -/
def execRatingRead (f : FrameLen) (slot firstPoint : Byte) (s : State) : Host.Outcome State Fault Refusal :=
  transacted (takeVerb f 3 0x33 (ratingRead slot firstPoint)) s

/-- The meaning of RATING_RETIRE. -/
def execRatingRetire (f : FrameLen) (slot : Byte) (s : State) : Host.Outcome State Fault Refusal :=
  transacted (takeVerb f 2 0x34 (ratingRetire slot)) s

/-- The meaning of SHIFT_PUT. -/
def execShiftPut (f : FrameLen) (slot : Byte) (time : Word) (shift : Half) (s : State) :
    Host.Outcome State Fault Refusal :=
  transacted (takeVerb f 8 0x35 (shiftPut slot time shift)) s

/-- The meaning of SHIFT_REMOVE. -/
def execShiftRemove (f : FrameLen) (slot : Byte) (time : Word) (s : State) : Host.Outcome State Fault Refusal :=
  transacted (takeVerb f 6 0x36 (shiftRemove slot time)) s

/-- The meaning of SHIFT_READ. -/
def execShiftRead (f : FrameLen) (slot : Byte) (s : State) : Host.Outcome State Fault Refusal :=
  transacted (takeVerb f 2 0x37 (shiftRead slot)) s

end Sys2Proof.Machine
end

