-- ==== Sys2Proof/Machine/Gauging.lean ====
section
/-! DEFINITION. The gauging unit (chapter 9): planning, the visits to the verticals, following the stage, suspension and
resume, completion with the comparison, adoption, and its verbs. -/

namespace Sys2Proof.Machine

/-! ## Records -/

/-- R153, R155: a gauging as GAUGING_PLAN creates it. -/
def Gauging.created (d : GaugingDirection) (m : Method) (offset unsteady : Nat) : Gauging where
  state := .planned
  direction := d
  method := m
  offset := offset
  unsteadyLimit := unsteady
  verticals := []
  current := none
  point := none
  step := .none
  startTime := none
  endTime := none
  stageAtStart := none
  latest := none
  stageSum := 0
  stageCount := 0
  worst := none
  flags := .clear
  suspendCause := none
  stopCause := none
  results := .absent
  adopted := false
  adoptedShift := none

/-- R175: whether the change from one record to another sets the gauging's member: a change of state, or UNSTEADY or
SOURCE_CHANGED going from clear to set. -/
def Gauging.marks (old new : Gauging) : Bool :=
  old.state != new.state || (!old.flags.unsteady && new.flags.unsteady) ||
    (!old.flags.sourceChanged && new.flags.sourceChanged)

/-- A gauging record is written to its slot, without its attention member. -/
def storeGauging (n : Fin 4) (g : Option Gauging) (s : State) : State := { s with gaugings := putAt s.gaugings n g }

/-- R175: the record of an installed gauging is rewritten, setting its member when the change calls for it. -/
def putGauging (n : Fin 4) (g : Gauging) (s : State) : State :=
  addMemberIf ((s.gaugings.get n).any fun old => old.marks g) (.gauging n) (storeGauging n (some g) s)

/-- Every installed gauging is rewritten. -/
def putEachGauging (f : Gauging → Gauging) (s : State) : State :=
  (List.finRange 4).foldl
    (fun s n => match s.gaugings.get n with
      | some g => putGauging n (f g) s
      | none => s) s

/-- R157: the gauging in RUNNING, of which there is at most one. -/
def runningGauging (s : State) : Option (Fin 4 × Gauging) :=
  (List.finRange 4).findSome? fun n =>
    match s.gaugings.get n with
    | some g => if g.state = .running then some (n, g) else none
    | none => none

/-- One vertical of a gauging rewritten. -/
def Gauging.withVertical (i : Nat) (v : Vertical) (g : Gauging) : Gauging := { g with verticals := g.verticals.set i v }

/-- R158: the indices of the verticals in the direction order. -/
def Gauging.order (g : Gauging) : List Nat :=
  match g.direction with
  | .fromStart => List.range g.verticals.length
  | .fromEnd => (List.range g.verticals.length).reverse

/-- Whether the vertical at an index is TODO. -/
def Gauging.todoAt (g : Gauging) (i : Nat) : Bool := g.verticals[i]?.any fun v => v.status == .todo

/-- R158, R167: the first TODO vertical in the direction order. -/
def Gauging.firstTodo (g : Gauging) : Option Nat := g.order.find? g.todoAt

/-- R163: the next TODO vertical in the direction order after an index. -/
def Gauging.nextTodo (g : Gauging) (i : Nat) : Option Nat :=
  ((g.order.dropWhile fun j => j != i).drop 1).find? g.todoAt

/-- The distance of the vertical at an index. -/
def Gauging.distanceAt (g : Gauging) (i : Nat) : Nat := (g.verticals[i]?.map (·.distance)).getD 0

/-- R158, R163, R167: a vertical becomes current and its sounding is awaited. -/
def Gauging.visiting (i : Nat) (g : Gauging) : Gauging := { g with current := some i, point := none, step := .sounding }

/-- R165: an unfinished vertical after its visit is discarded. -/
def Vertical.discarded (v : Vertical) : Vertical :=
  if v.status = .todo then
    { v with
      depth := none, points := [], mean := none, flow := none, method := v.planned
      nearBed := false, downgraded := false, still := false, saturated := false }
  else v

/-- R165: the current vertical's visit is discarded. -/
def Gauging.discardVisit (g : Gauging) : Gauging :=
  match g.current with
  | some i =>
    match g.verticals[i]? with
    | some v => g.withVertical i v.discarded
    | none => g
  | none => g

/-- R161, R165, R166: a RUNNING gauging is suspended. -/
def Gauging.suspended (cause : SuspendCause) (next : Step) (g : Gauging) : Gauging :=
  { g.discardVisit with state := .suspended, suspendCause := some cause, step := next }

/-! ## A vertical's points (R160, R162) -/

/-- R160: tenths of a depth, rounded half up. -/
def tenths (k d : Nat) : Nat := halfUp (d * k) 10

/-- R160: the point depths of a vertical sounded at its measured depth, in the order taken. -/
def Vertical.pointDepths (offset : Nat) (v : Vertical) : List Nat :=
  let d := v.depth.getD 0
  match v.method with
  | .surface => [100]
  | .sixTenths => if v.nearBed then [d - offset] else [tenths 6 d]
  | .twoPoint => [tenths 2 d, tenths 8 d]
  | .threePoint => [tenths 2 d, tenths 6 d, tenths 8 d]

/-- R160, case 4: a method whose 0.8 point does not fit becomes SIX_TENTHS. -/
def Vertical.downgradeFor (room : Int) (d : Nat) (v : Vertical) : Vertical :=
  if (v.method = .twoPoint ∨ v.method = .threePoint) ∧ room < tenths 8 d then
    { v with method := .sixTenths, downgraded := true }
  else v

/-- R160, case 5: a 0.6 point that does not fit is taken near the bed. -/
def Vertical.nearBedFor (room : Int) (d : Nat) (v : Vertical) : Vertical :=
  if v.method = .sixTenths ∧ room < tenths 6 d then { v with nearBed := true } else v

/-- R160: the vertical after its sounding at depth `d`. It is finished when its status is no longer TODO. -/
def Vertical.sounded (offset d : Nat) (v : Vertical) : Vertical :=
  let room : Int := (d : Int) - offset
  let v0 := { v with depth := some d }
  if v.edge then { v0 with status := .done }
  else if room < 100 then { v0 with status := .skipped, flow := some 0 }
  else (v0.downgradeFor room d).nearBedFor room d

/-- R162: the mean velocity of a vertical from the velocities of its points. -/
def meanVelocity (m : Method) (coeff : Nat) : List Nat → Nat
  | [a] => match m with
    | .surface => halfUp (a * coeff) 1000
    | .sixTenths | .twoPoint | .threePoint => a
  | [a, b] => halfUp (a + b) 2
  | [a, b, c] => halfUp (a + 2 * b + c) 4
  | _ => 0

/-- R154: the partial of a vertical with a mean velocity: velocity × depth × span. -/
def Vertical.withMean (mean : Nat) (v : Vertical) : Vertical :=
  { v with mean := some mean, flow := some (mean * v.depth.getD 0 * v.span) }

/-- R162: the vertical with a point result appended. -/
def Vertical.withPoint (depth : Nat) (x : PointResult) (v : Vertical) : Vertical :=
  { v with
    points := v.points ++ [(depth, x.velocity)]
    still := v.still || x.still
    saturated := v.saturated || x.countSaturated || x.velocityLimited }

/-- R162: the vertical after its last point: DONE with its mean velocity and partial. -/
def Vertical.completed (v : Vertical) : Vertical :=
  { v.withMean (meanVelocity v.method v.surfaceCoeff (v.points.map (·.2))) with status := .done }

/-! ## Completion (R169, R170) -/

/-- R169: an edge vertical settled from its adjacent vertical. -/
def Vertical.settledEdge (adjacent : Option Vertical) (v : Vertical) : Vertical :=
  match adjacent with
  | some a => v.withMean (if a.status = .skipped then 0 else halfUp (v.edgeFactor * a.mean.getD 0) 1000)
  | none => v.withMean 0

/-- R169: the vertical adjacent to the one at an index: the second for the first, else the one before. -/
def adjacentIndex (i : Nat) : Nat := if i = 0 then 1 else i - 1

/-- R169: the verticals with every edge settled. -/
def edgesSettled (vs : List Vertical) : List Vertical :=
  vs.zipIdx.map fun p => if p.1.edge then p.1.settledEdge vs[adjacentIndex p.2]? else p.1

/-- R169: the measured discharge, from the partials. -/
def measuredDischarge (vs : List Vertical) : Nat :=
  min (halfUp (vs.map fun v => v.flow.getD 0).sum 2000000) maxDischarge

/-- R170: the midpoint time of a gauging. -/
def midpointTime (start fin : Nat) : Nat := if fin < start then fin else start + halfUp (fin - start) 2

/-- R170, R171: a gauging's midpoint time from its recorded times. -/
def Gauging.midpoint (g : Gauging) : Nat := midpointTime (g.startTime.getD 0) (g.endTime.getD 0)

/-- R170: the mean gauge height. -/
def Gauging.meanHeight (g : Gauging) : Option Int :=
  if g.stageCount = 0 then none else some (halfAway g.stageSum g.stageCount)

/-- R170: the deviation in tenths of a percent, absent for a rated discharge of 0. -/
def deviation (measured rated : Nat) : Option Int :=
  if rated = 0 then none else some (halfAway (((measured : Int) - rated) * 1000) rated)

/-- R170: the comparison of a measured discharge with a rating at a mean gauge height and midpoint time. -/
def comparison (measured : Nat) (height : Int) (mid : Nat) (k : Fin 3) (r : RatingSlot) : GaugingResults × Bool :=
  let rated := ratedRequest r.points r.allowance r.shifts height mid
  let inv := inverseRequest r.points r.allowance measured
  ({ measured := some measured, meanHeight := some height, rated := some rated.discharge,
     deviation := deviation measured rated.discharge, indicated := inv.stage.map fun h => h - height,
     slot := some k, generation := r.generation },
   rated.extrapolated || inv.extrapolated)

/-- R170: the results of a gauging at completion, and whether EXTRAPOLATED is set. -/
def resultsOf (store : RatingStore) (measured mid : Nat) (height : Option Int) : GaugingResults × Bool :=
  match store.inForce with
  | none => ({ GaugingResults.absent with measured := some measured, meanHeight := height }, false)
  | some k =>
    let r := store.slots.get k
    match height with
    | none => ({ GaugingResults.absent with measured := some measured, slot := some k, generation := r.generation }, false)
    | some h => comparison measured h mid k r

/-- R169, R170: a gauging whose last vertical is finished, completed at a station time with the store as it stands. -/
def Gauging.completed (now : Nat) (store : RatingStore) (g : Gauging) : Gauging :=
  let vs := edgesSettled g.verticals
  let out := resultsOf store (measuredDischarge vs) (midpointTime (g.startTime.getD 0) now) g.meanHeight
  { g with
    state := .complete, verticals := vs, endTime := some now, results := out.1, step := .returning
    flags := { g.flags with extrapolated := g.flags.extrapolated || out.2 } }

/-! ## The run of a gauging (R160 to R163) -/

/-- R163: the latest stage is added at a finished vertical, when there is one. -/
def Gauging.addLatest (g : Gauging) : Gauging :=
  match g.latest with
  | some (some h, _) => { g with stageSum := g.stageSum + h, stageCount := g.stageCount + 1 }
  | _ => g

/-- R163: what follows a finished vertical: MOVE_ON to the next one to visit, or completion and RETURN. `g` already holds
the finished vertical, at index `i`. -/
def finishVertical (n : Fin 4) (g : Gauging) (i : Nat) (s : State) : State :=
  let g1 := g.addLatest
  match g1.nextTodo i with
  | some j => askMoveOn (g1.distanceAt j) (addMember (.gauging n) (putGauging n (g1.visiting j) s))
  | none =>
    askReturn (addMember (.gauging n) (putGauging n (g1.completed s.host.time s.ratings) s))

/-- R160: SOUNDED is reported with the sounded depth. -/
def takeSounded (d : Nat) (s : State) : State :=
  match runningGauging s with
  | some (n, g) =>
    match g.step, g.current.bind fun i => g.verticals[i]?.map fun v => (i, v) with
    | .sounding, some (i, v) =>
      let w := v.sounded g.offset d
      if w.status = .todo then
        askSet ((w.pointDepths g.offset).headD 0) g.offset
          (putGauging n { g.withVertical i w with point := some 0, step := .setting } s)
      else finishVertical n (g.withVertical i w) i s
    | _, _ => s
  | none => s

/-- R161: POINT_SET is reported: the exposure is started, or the gauging is suspended with METER_REFUSED. -/
def takePointSet (s : State) : State :=
  match runningGauging s with
  | some (n, g) =>
    if g.step = .setting then
      match s.meter.startAnswer with
      | .started => { putGauging n { g with step := .exposing } s with meter := s.meter.afterStart }
      | .noMeterRating | .busy => askReturn (putGauging n (g.suspended .meterRefused .returning) s)
    else s
  | none => s

/-- R162: a point result is handed over by the meter counter. -/
def takePointResult (x : PointResult) (s : State) : State :=
  match runningGauging s with
  | some (n, g) =>
    match g.step, g.current.bind fun i => g.verticals[i]?.map fun v => (i, v), g.point with
    | .exposing, some (i, v), some k =>
      let depths := v.pointDepths g.offset
      let w := v.withPoint (depths.getD k 0) x
      if k + 1 < depths.length then
        askSet (depths.getD (k + 1) 0) g.offset
          (putGauging n { g.withVertical i w with point := some (k + 1), step := .setting } s)
      else finishVertical n (g.withVertical i w.completed) i s
    | _, _, _ => s
  | none => s

/-! ## Reports and deliveries -/

/-- R166: a record after a STOPPED report. -/
def Gauging.afterStop (cause : StopCause) (g : Gauging) : Gauging :=
  let faulted := g.flags.winchFault || cause == .winchFault || cause == .timeout
  match g.state with
  | .running =>
    { g.suspended .carriageStopped .none with stopCause := some cause, flags := { g.flags with winchFault := faulted } }
  | .suspended => { g with stopCause := some cause, flags := { g.flags with winchFault := faulted }, step := .none }
  | .planned | .complete | .aborted => { g with step := if g.step = .returning then .none else g.step }

/-- R166: the gauging unit takes a STOPPED report. -/
def takeStopped (cause : StopCause) (s : State) : State := putEachGauging (Gauging.afterStop cause) s

/-- R166: a PARKED report ends the return of every record whose step is RETURNING, and sets its member. -/
def takeParked (s : State) : State :=
  (List.finRange 4).foldl
    (fun s n => match s.gaugings.get n with
      | some g => if g.step = .returning then addMember (.gauging n) (putGauging n { g with step := .none } s) else s
      | none => s) s

/-- R165: a record after a withdraw rise. -/
def Gauging.afterWithdraw (g : Gauging) : Gauging :=
  if g.state = .running then { g.suspended .withdraw .returning with flags := { g.flags with withdrawn := true } } else g

/-- R165: the gauging unit takes a withdraw rise. -/
def gaugingWithdraw (s : State) : State := putEachGauging Gauging.afterWithdraw s

/-- R153: the worse of two qualities. -/
def worseQuality : Quality → Quality → Quality
  | .lost, _ | _, .lost => .lost
  | .held, _ | _, .held => .held
  | .suspect, _ | _, .suspect => .suspect
  | .good, .good => .good

/-- R164: whether a stage lies more than the unsteady limit from the stage at start. -/
def farFrom (limit : Nat) (a b : Option Int) : Bool :=
  match a, b with
  | some x, some y => decide ((limit : Int) < (x - y).natAbs)
  | _, _ => false

/-- R164: a record after a flow sample. -/
def Gauging.afterFlow (x : StageSample) (g : Gauging) : Gauging :=
  if g.state.isOpen then
    let start := g.stageAtStart.or x.stage
    { g with
      latest := some (x.stage, x.quality)
      worst := some (match g.worst with
        | some q => worseQuality q x.quality
        | none => x.quality)
      stageAtStart := start
      flags := { g.flags with
        sourceChanged := g.flags.sourceChanged || x.sourceChanged
        unsteady := g.flags.unsteady || farFrom g.unsteadyLimit start x.stage } }
  else g

/-- R164: the gauging unit takes a flow sample. -/
def gaugingTakeFlow (x : StageSample) (s : State) : State := putEachGauging (Gauging.afterFlow x) s

/-! ## Verbs -/

/-- R155: GAUGING_PLAN. The header in its response is every header field of R153 (DESIGN CHOICE, notes/assumptions/58.md). -/
def gaugingPlan (slot direction method : Byte) (offset unsteady : Half) (s : State) : State × Answer :=
  match keyOf 4 slot, gaugingDirectionOf direction, methodOf method with
  | some n, some d, some m =>
    if 2000 < offset.toNat then refuse .badField .nil s
    else
      let u := clampNat 1 1000 unsteady.toNat
      match s.gaugings.get n with
      | none =>
        let g := Gauging.created d m offset.toNat u
        (storeGauging n (some g) s, ⟨.ok, .gaugingHeader g⟩)
      | some old =>
        if old.state = .planned then
          let g := { old with direction := d, method := m, offset := offset.toNat, unsteadyLimit := u, verticals := [] }
          (storeGauging n (some g) s, ⟨.ok, .gaugingHeader g⟩)
        else refuse .wrongState .nil s
  | _, _, _ => refuse .badField .nil s

/-- R154, R156: the vertical a frame's entry stands for, when every field lies in its range. -/
def verticalOf (dflt : Method) (x : VerticalField) : Option Vertical :=
  match verticalMethodOf dflt x.method, flagOf x.edge with
  | some m, some edge =>
    if x.distance.toNat ≤ maxDistance ∧ x.edgeFactor.toNat ≤ 1000 ∧ (edge → x.plannedDepth.toNat ≤ 30000) ∧
        500 ≤ x.surfaceCoeff.toNat ∧ x.surfaceCoeff.toNat ≤ 1000 then
      some
        { distance := x.distance.toNat, method := m, planned := m, edge := edge, edgeFactor := x.edgeFactor.toNat,
          plannedDepth := if edge then some x.plannedDepth.toNat else none, surfaceCoeff := x.surfaceCoeff.toNat,
          status := .todo, depth := none, points := [], mean := none, span := 0, flow := none,
          nearBed := false, downgraded := false, still := false, saturated := false }
    else none
  | _, _ => none

/-- R156, check 4: the verticals of a frame, or the index of the first that fails; `prev` is the distance before. -/
def verticalsOf (dflt : Method) (prev : Option Nat) (i : Nat) : List VerticalField → Except Nat (List Vertical)
  | [] => .ok []
  | x :: rest =>
    match verticalOf dflt x with
    | none => .error i
    | some v =>
      if prev.any fun d => decide (v.distance ≤ d) then .error i
      else match verticalsOf dflt (some v.distance) (i + 1) rest with
        | .error j => .error j
        | .ok vs => .ok (v :: vs)

/-- R156: the most verticals a gauging holds. -/
def maxVerticals : Nat := 40

/-- R156: GAUGING_VERTICALS. -/
def gaugingVerticals (slot : Byte) (verticals : List VerticalField) (s : State) : State × Answer :=
  match keyOf 4 slot with
  | none => refuse .badField .nil s
  | some n =>
    if verticals.length = 0 ∨ 4 < verticals.length then refuse .badField .nil s
    else match s.gaugings.get n with
      | none => refuse .noRecord .nil s
      | some g =>
        if g.state ≠ .planned then refuse .wrongState .nil s
        else match verticalsOf g.method (g.verticals.getLast?.map (·.distance)) 0 verticals with
          | .error i => refuse .badField (.verticalFailed i) s
          | .ok vs =>
            if maxVerticals < g.verticals.length + vs.length then refuse .full .nil s
            else
              let all := g.verticals ++ vs
              (storeGauging n (some { g with verticals := all }) s,
                ⟨.ok, .verticalsTaken all.length (maxVerticals - all.length)⟩)

/-- R157, check 5: the first edge vertical that is neither the first nor the last. -/
def innerEdge (vs : List Vertical) : Option Nat :=
  (List.range vs.length).find? fun i => decide (0 < i) && decide (i + 1 < vs.length) && vs[i]?.any fun v => v.edge

/-- R158: the span of the vertical at an index. -/
def spanAt (ds : List Nat) (i : Nat) : Nat :=
  if i = 0 then ds.getD 1 0 - ds.getD 0 0
  else if i + 1 = ds.length then ds.getD i 0 - ds.getD (i - 1) 0
  else ds.getD (i + 1) 0 - ds.getD (i - 1) 0

/-- R158: a water's-edge vertical is DONE with measured depth 0. -/
def Vertical.atStart (span : Nat) (v : Vertical) : Vertical :=
  if v.edge ∧ v.plannedDepth = some 0 then { v with span := span, status := .done, depth := some 0 }
  else { v with span := span }

/-- R158: the verticals of a gauging at its start. -/
def verticalsAtStart (vs : List Vertical) : List Vertical :=
  vs.zipIdx.map fun p => p.1.atStart (spanAt (vs.map (·.distance)) p.2)

/-- R158: the record of a gauging at its start, before its first visit is asked. -/
def Gauging.started (now : Nat) (flow : Option FlowSample) (g : Gauging) : Gauging :=
  { g with
    state := .running
    startTime := some now
    stageAtStart := flow.bind fun x => x.sample.stage
    latest := flow.map fun x => (x.sample.stage, x.sample.quality)
    worst := flow.map fun x => x.sample.quality
    stageSum := 0, stageCount := 0, flags := .clear, suspendCause := none, stopCause := none, results := .absent
    verticals := verticalsAtStart g.verticals }

/-- R158, R167: the first TODO vertical becomes current and a VISIT to it is asked. -/
def beginVisit (n : Fin 4) (g : Gauging) (s : State) : State :=
  match g.firstTodo with
  | some i => askVisit (g.distanceAt i) (putGauging n (g.visiting i) s)
  | none => putGauging n g s

/-- R157, R158: GAUGING_START. The header in its response is every header field of R153 (DESIGN CHOICE,
notes/assumptions/58.md). -/
def gaugingStart (slot : Byte) (s : State) : State × Answer :=
  match keyOf 4 slot with
  | none => refuse .badField .nil s
  | some n =>
    match s.gaugings.get n with
    | none => refuse .noRecord .nil s
    | some g =>
      if g.state ≠ .planned then refuse .wrongState .nil s
      else if g.verticals.length < 3 then refuse .wrongState .nil s
      else match innerEdge g.verticals with
        | some i => refuse .badField (.verticalFailed i) s
        | none =>
          if gaugingOpen s then refuse .busy .nil s
          else if s.carriage.state ≠ .parked then refuse .busy .nil s
          else if s.watches.demand then refuse .wrongState .nil s
          else
            let t := beginVisit n (g.started s.host.time s.lastFlow) s
            (t, ⟨.ok, .gaugingHeader ((t.gaugings.get n).getD g)⟩)

/-- R167: GAUGING_RESUME. -/
def gaugingResume (slot : Byte) (s : State) : State × Answer :=
  match keyOf 4 slot with
  | none => refuse .badField .nil s
  | some n =>
    match s.gaugings.get n with
    | none => refuse .noRecord .nil s
    | some g =>
      if g.state ≠ .suspended then refuse .wrongState .nil s
      else if s.carriage.state ≠ .parked then refuse .busy .nil s
      else if s.watches.demand then refuse .wrongState .nil s
      else (beginVisit n { g with state := .running, suspendCause := none } s, ⟨.ok, .nil⟩)

/-- R168: the record of a gauging given up; its step waits for a return when one is taken. -/
def Gauging.abandoned (now : Nat) (returning : Bool) (g : Gauging) : Gauging :=
  { g.discardVisit with
    state := .aborted, current := none, point := none, endTime := some now
    step := if returning then .returning else .none }

/-- R168: GAUGING_ABORT. -/
def gaugingAbort (slot : Byte) (s : State) : State × Answer :=
  match keyOf 4 slot with
  | none => refuse .badField .nil s
  | some n =>
    match s.gaugings.get n with
    | none => refuse .noRecord .nil s
    | some g =>
      if g.state.isOpen then
        (askReturn (putGauging n (g.abandoned s.host.time s.carriage.state.working) s), ⟨.ok, .nil⟩)
      else refuse .wrongState .nil s

/-- R174: GAUGING_READ. -/
def gaugingRead (slot firstVertical : Byte) (s : State) : State × Answer :=
  match keyOf 4 slot with
  | none => refuse .badField .nil s
  | some n =>
    if 39 < firstVertical.toNat then refuse .badField .nil s
    else match s.gaugings.get n with
      | none => refuse .noRecord .nil s
      | some g => (s, ⟨.ok, .gauging g firstVertical.toNat⟩)

/-- R74: whether a slot holds a given generation in a sealed rating. -/
def storeHolds (st : RatingStore) (k : Fin 3) (generation : Option Nat) : Bool :=
  let r := st.slots.get k
  (r.state == .ready || r.state == .inForce || r.state == .superseded) && generation.isSome && r.generation == generation

/-- R171: the shift an adoption writes, once the checks on the gauging have passed. -/
def adoptInto (n : Fin 4) (g : Gauging) (k : Fin 3) (v : Int) (s : State) : State × Answer :=
  let x : Shift := { time := g.midpoint, shift := v }
  let out := writeShift k x s
  if out.2.code = .ok then
    (addMember (.gauging n) (putGauging n { g with adopted := true, adoptedShift := some x } out.1), out.2)
  else (s, out.2)

/-- R171: GAUGING_ADOPT. -/
def gaugingAdopt (slot : Byte) (shift : Option Half) (s : State) : State × Answer :=
  match keyOf 4 slot with
  | none => refuse .badField .nil s
  | some n =>
    if shift.any fun v => !shiftOk v.toInt then refuse .badField .nil s
    else match s.gaugings.get n with
      | none => refuse .noRecord .nil s
      | some g =>
        if g.state ≠ .complete ∨ g.adopted then refuse .wrongState .nil s
        else match g.results.indicated, g.results.slot with
          | some v, some k =>
            if storeHolds s.ratings k g.results.generation then
              adoptInto n g k ((shift.map BitVec.toInt).getD v) s
            else refuse .noRecord .nil s
          | _, _ => refuse .noRecord .nil s

/-- R172: GAUGING_RETIRE. -/
def gaugingRetire (slot : Byte) (s : State) : State × Answer :=
  match keyOf 4 slot with
  | none => refuse .badField .nil s
  | some n =>
    match s.gaugings.get n with
    | none => refuse .noRecord .nil s
    | some g => if g.state.isOpen then refuse .wrongState .nil s else (storeGauging n none s, ⟨.ok, .nil⟩)

/-! ## Meanings -/

/-- The meaning of GAUGING_PLAN. -/
def execGaugingPlan (f : FrameLen) (slot direction method : Byte) (offset unsteady : Half) (s : State) :
    Host.Outcome State Fault Refusal :=
  transacted (takeVerb f 8 0x60 (gaugingPlan slot direction method offset unsteady)) s

/-- The meaning of GAUGING_VERTICALS; its layout length is worked out from the count (R187). -/
def execGaugingVerticals (f : FrameLen) (slot : Byte) (verticals : List VerticalField) (s : State) :
    Host.Outcome State Fault Refusal :=
  transacted (takeVerb f (3 + 12 * verticals.length) 0x61 (gaugingVerticals slot verticals)) s

/-- The meaning of GAUGING_START. -/
def execGaugingStart (f : FrameLen) (slot : Byte) (s : State) : Host.Outcome State Fault Refusal :=
  transacted (takeVerb f 2 0x62 (gaugingStart slot)) s

/-- The meaning of GAUGING_RESUME. -/
def execGaugingResume (f : FrameLen) (slot : Byte) (s : State) : Host.Outcome State Fault Refusal :=
  transacted (takeVerb f 2 0x63 (gaugingResume slot)) s

/-- The meaning of GAUGING_ABORT. -/
def execGaugingAbort (f : FrameLen) (slot : Byte) (s : State) : Host.Outcome State Fault Refusal :=
  transacted (takeVerb f 2 0x64 (gaugingAbort slot)) s

/-- The meaning of GAUGING_READ. -/
def execGaugingRead (f : FrameLen) (slot firstVertical : Byte) (s : State) : Host.Outcome State Fault Refusal :=
  transacted (takeVerb f 3 0x65 (gaugingRead slot firstVertical)) s

/-- R187: the length of a GAUGING_ADOPT frame: 4 with a host-given shift, 2 without. -/
def adoptLength : Option Half → Nat
  | some _ => 4
  | none => 2

/-- The meaning of GAUGING_ADOPT. -/
def execGaugingAdopt (f : FrameLen) (slot : Byte) (shift : Option Half) (s : State) :
    Host.Outcome State Fault Refusal :=
  transacted (takeVerb f (adoptLength shift) 0x66 (gaugingAdopt slot shift)) s

/-- The meaning of GAUGING_RETIRE. -/
def execGaugingRetire (f : FrameLen) (slot : Byte) (s : State) : Host.Outcome State Fault Refusal :=
  transacted (takeVerb f 2 0x67 (gaugingRetire slot)) s

/-- The meaning of EXPOSURE_EXPIRY (R148): the point result is computed, stored and handed to the gauging unit. -/
def execExposureExpiry (s : State) : Host.Outcome State Fault Refusal :=
  live (fun s =>
    match s.meter.result with
    | some x => takePointResult x { s with meter := s.meter.finish x }
    | none => s) s

end Sys2Proof.Machine
end

