-- ==== Sys2Proof/Machine/Watches.lean ====
section
/-! DEFINITION. The watch unit (chapter 6): the move of a watch at a flow sample, the warning lines, the withdraw demand
with its delivery, the summary, and the verbs WATCH_PUT, WATCH_READ, WATCH_ACK, WATCH_REMOVE and LINE_CONFIG. -/

namespace Sys2Proof.Machine

/-! ## Operand and class (R100, R101) -/

/-- R100: the operand of a subject in a flow sample. -/
def Subject.operand (x : FlowSample) : Subject → Option Int
  | .stage => x.sample.stage
  | .discharge => x.discharge.map fun q => (q : Int)
  | .rise => x.sample.rise

/-- R101: the class of a present operand. -/
def Watch.classOf (w : Watch) (v : Int) : WatchClass :=
  match w.direction with
  | .above => if w.threshold ≤ v then .beyond else if v ≤ w.release then .quiet else .neither
  | .below => if v ≤ w.threshold then .beyond else if w.release ≤ v then .quiet else .neither

/-! ## Moves (R103 to R107) -/

/-- R103, R107: a watch enters ACTIVE from IDLE or PENDING at station time `t`. -/
def Watch.raiseAt (t : Nat) (w : Watch) : Watch := { w with state := .active, count := 0, raisedSince := some t }

/-- R104, R105: a watch clears. -/
def Watch.cleared (w : Watch) : Watch := { w with state := .idle, count := 0, acked := false }

/-- R103, R105: a run toward the raise persistence, one BEYOND sample longer. -/
def Watch.runBeyond (t n : Nat) (w : Watch) : Watch :=
  if w.raise ≤ n then w.raiseAt t else { w with state := .pending, count := n }

/-- R104, R105: a run toward the clear persistence, one QUIET sample longer. -/
def Watch.runQuiet (n : Nat) (w : Watch) : Watch :=
  if w.clear ≤ n then w.cleared else { w with state := .easing, count := n }

/-- R103: a watch in IDLE or PENDING at a present operand; `n` is its count. -/
def Watch.moveLow (t n : Nat) (c : WatchClass) (w : Watch) : Watch :=
  match c with
  | .beyond => w.runBeyond t (n + 1)
  | .none | .neither | .quiet | .absent => { w with state := .idle, count := 0 }

/-- R104: a watch in ACTIVE or ACKED at a present operand. -/
def Watch.moveRaised (c : WatchClass) (w : Watch) : Watch :=
  match c with
  | .quiet => w.runQuiet 1
  | .none | .beyond | .neither | .absent => { w with count := 0 }

/-- R105: a watch in EASING at a present operand. -/
def Watch.moveEasing (c : WatchClass) (w : Watch) : Watch :=
  match c with
  | .beyond => { w with state := if w.acked then .acked else .active, count := 0 }
  | .quiet => w.runQuiet (w.count + 1)
  | .none | .neither | .absent => w

/-- R107: a watch whose on-loss is RAISE at an absent operand. -/
def Watch.moveLost (t : Nat) (w : Watch) : Watch :=
  match w.state with
  | .idle | .pending => w.raiseAt t
  | .easing => if w.acked then w else { w with state := .active, count := 0 }
  | .active | .acked => w

/-- R103 to R107: the move of a watch at a flow sample of station time `t` with the given operand. -/
def Watch.move (t : Nat) (o : Option Int) (w : Watch) : Watch :=
  match o, w.state with
  | none, _ => if w.onLoss = .raise then w.moveLost t else w
  | some v, .idle => w.moveLow t 0 (w.classOf v)
  | some v, .pending => w.moveLow t w.count (w.classOf v)
  | some v, .active | some v, .acked => w.moveRaised (w.classOf v)
  | some v, .easing => w.moveEasing (w.classOf v)

/-- R102: a watch takes a flow sample. -/
def Watch.take (x : FlowSample) (w : Watch) : Watch :=
  let o := w.subject.operand x
  { w.move x.sample.time o with
    lastOperand := o
    lastClass := match o with
      | some v => w.classOf v
      | none => .absent }

/-! ## Lines, demand and summary (R113, R115, R117) -/

/-- R115: the lines a watch drives under a silenceable set. -/
def Watch.drives (silenceable : Byte) (w : Watch) : Byte :=
  match w.state with
  | .idle | .pending => 0
  | .active => w.lines
  | .acked => w.lines &&& ~~~silenceable
  | .easing => if w.acked then w.lines &&& ~~~silenceable else w.lines

/-- R113: a watch that is raised and not acknowledged. -/
def Watch.unacknowledged (w : Watch) : Bool := w.state == .active || (w.state == .easing && !w.acked)

/-- The installed watches, in key order. -/
def WatchUnit.watches (u : WatchUnit) : List Watch := u.table.toList.filterMap id

/-- R115: the lines that must be driven. -/
def WatchUnit.linesNow (u : WatchUnit) : Byte := u.watches.foldl (fun acc w => acc ||| w.drives u.silenceable) 0

/-- R117: what the withdraw demand must be. -/
def WatchUnit.demandNow (u : WatchUnit) : Bool := u.watches.any fun w => w.withdraw && w.state.raised

/-- R113: the set of the keys whose watch has a property. -/
def WatchUnit.keysWith (u : WatchUnit) (p : Watch → Bool) : BitVec 24 :=
  (List.finRange 24).foldl (fun acc k => if (u.table.get k).any p then acc ||| BitVec.twoPow 24 k.val else acc) 0

/-- R113: the station level. -/
def WatchUnit.level (u : WatchUnit) : Nat :=
  u.watches.foldl (fun acc w => if w.state.raised then max acc w.level else acc) 0

/-- R113: the summary. -/
def WatchUnit.summary (u : WatchUnit) : WatchSummary where
  installed := u.keysWith fun _ => true
  raised := u.keysWith fun w => w.state.raised
  unacknowledged := u.keysWith Watch.unacknowledged
  level := u.level
  lines := u.lines
  silenceable := u.silenceable
  demand := u.demand

/-- R115, R117: the watch unit with its lines and its demand set anew. -/
def WatchUnit.settled (u : WatchUnit) : WatchUnit := { u with lines := u.linesNow, demand := u.demandNow }

/-- R117: the watch table is rewritten: lines and demand are set anew, and a rise of the demand is delivered to the
cableway controller (R137) and to the gauging unit (R165). A fall moves neither (R137, R165). -/
def putWatches (u : WatchUnit) (s : State) : State :=
  let t := { s with watches := u.settled }
  if !s.watches.demand && u.settled.demand then gaugingWithdraw (carriageWithdraw t) else t

/-- R119: the members of the keys at which a test holds are set. -/
def markWatches (test : Fin 24 → Bool) (s : State) : State :=
  (List.finRange 24).foldl (fun s k => addMemberIf (test k) (.watch k) s) s

/-- R119: whether a key's watch changed its state between two tables. -/
def watchMoved (old new : Option Watch) : Bool := old.map (·.state) != new.map (·.state)

/-- R102: every installed watch takes a flow sample. -/
def watchesTake (x : FlowSample) (s : State) : State :=
  let table := mapTable (fun _ w => w.map (Watch.take x)) s.watches.table
  putWatches { s.watches with table := table }
    (markWatches (fun k => watchMoved (s.watches.table.get k) (table.get k)) s)

/-! ## Verbs -/

/-- The state with one key of the watch table rewritten and its member set (R111, R112, R119). -/
def putWatch (k : Fin 24) (w : Option Watch) (s : State) : State :=
  putWatches { s.watches with table := putAt s.watches.table k w } (addMember (.watch k) s)

/-- R113: a refusal of a watch verb carries the summary. -/
def refuseWatch (code : ResultCode) (s : State) : State × Answer := refuse code (.watchSummary s.watches.summary) s

/-- R99: a watch as installed. -/
def Watch.installed (subject : Subject) (direction : WatchDirection) (threshold release : Int) (raise clear level : Nat)
    (lines : Byte) (withdraw : Bool) (onLoss : OnLoss) : Watch where
  subject := subject
  direction := direction
  threshold := threshold
  release := release
  raise := raise
  clear := clear
  level := level
  lines := lines
  withdraw := withdraw
  onLoss := onLoss
  state := .idle
  count := 0
  acked := false
  lastOperand := none
  lastClass := .none
  raisedSince := none

/-- R110: the checks of WATCH_PUT on its fields, and the watch they let through with its persistences clamped. -/
def watchOf (subject direction : Byte) (threshold release : Word) (raise clear level lines withdraw onLoss : Byte) :
    Option Watch :=
  match subjectOf subject, watchDirectionOf direction, flagOf withdraw, onLossOf onLoss with
  | some sub, some dir, some wd, some ol =>
    if level.toNat < 1 ∨ 4 < level.toNat then none
    else if !(operandOk sub threshold.toInt && operandOk sub release.toInt) then none
    else if !quietSide dir threshold.toInt release.toInt then none
    else some (.installed sub dir threshold.toInt release.toInt (clampNat 1 60 raise.toNat) (clampNat 1 60 clear.toNat)
      level.toNat lines wd ol)
  | _, _, _, _ => none

/-- R110, R111: WATCH_PUT. -/
def watchPut (key subject direction : Byte) (threshold release : Word)
    (raise clear level lines withdraw onLoss : Byte) (s : State) : State × Answer :=
  match keyOf 24 key, watchOf subject direction threshold release raise clear level lines withdraw onLoss with
  | some k, some w =>
    let t := putWatch k (some w) s
    (t, ⟨.ok, .watch w t.watches.summary⟩)
  | _, _ => refuseWatch .badField s

/-- R114: WATCH_READ. -/
def watchRead (key : Byte) (s : State) : State × Answer :=
  match keyOf 24 key with
  | none => refuseWatch .badField s
  | some k =>
    match s.watches.table.get k with
    | none => refuseWatch .noRecord s
    | some w => (s, ⟨.ok, .watch w s.watches.summary⟩)

/-- R108: the watch after an acknowledgement that changes it, if it does. -/
def Watch.acknowledged (w : Watch) : Option Watch :=
  match w.state with
  | .active => some { w with state := .acked, acked := true }
  | .easing => if w.acked then none else some { w with acked := true }
  | .idle | .pending | .acked => none

/-- R108: WATCH_ACK. -/
def watchAck (key : Byte) (s : State) : State × Answer :=
  match keyOf 24 key with
  | none => refuseWatch .badField s
  | some k =>
    match s.watches.table.get k with
    | none => refuseWatch .noRecord s
    | some w =>
      if !w.state.raised then refuse .wrongState (.watch w s.watches.summary) s
      else match w.acknowledged with
        | some v =>
          let t := putWatch k (some v) s
          (t, ⟨.ok, .watch v t.watches.summary⟩)
        | none => (s, ⟨.ok, .watch w s.watches.summary⟩)

/-- R112: WATCH_REMOVE. -/
def watchRemove (key : Byte) (s : State) : State × Answer :=
  match keyOf 24 key with
  | none => refuseWatch .badField s
  | some k =>
    match s.watches.table.get k with
    | none => refuseWatch .noRecord s
    | some _ =>
      let t := putWatch k none s
      (t, ⟨.ok, .watchSummary t.watches.summary⟩)

/-- R116: the watch unit after LINE_CONFIG: the withdraw demand is not touched (R117). -/
def WatchUnit.withSilenceable (set : Byte) (u : WatchUnit) : WatchUnit :=
  let v := { u with silenceable := set }
  { v with lines := v.linesNow }

/-- R116: LINE_CONFIG. -/
def lineConfig (silenceable : Byte) (s : State) : State × Answer :=
  let u := s.watches.withSilenceable silenceable
  ({ s with watches := u }, ⟨.ok, .lineConfig u.silenceable u.lines u.summary⟩)

/-! ## Meanings -/

/-- The meaning of WATCH_PUT. -/
def execWatchPut (f : FrameLen) (key subject direction : Byte) (threshold release : Word)
    (raise clear level lines withdraw onLoss : Byte) (s : State) : Host.Outcome State Fault Refusal :=
  transacted (takeVerb f 18 0x41
    (watchPut key subject direction threshold release raise clear level lines withdraw onLoss)) s

/-- The meaning of WATCH_READ. -/
def execWatchRead (f : FrameLen) (key : Byte) (s : State) : Host.Outcome State Fault Refusal :=
  transacted (takeVerb f 2 0x42 (watchRead key)) s

/-- The meaning of WATCH_ACK. -/
def execWatchAck (f : FrameLen) (key : Byte) (s : State) : Host.Outcome State Fault Refusal :=
  transacted (takeVerb f 2 0x43 (watchAck key)) s

/-- The meaning of WATCH_REMOVE. -/
def execWatchRemove (f : FrameLen) (key : Byte) (s : State) : Host.Outcome State Fault Refusal :=
  transacted (takeVerb f 2 0x44 (watchRemove key)) s

/-- The meaning of LINE_CONFIG. -/
def execLineConfig (f : FrameLen) (silenceable : Byte) (s : State) : Host.Outcome State Fault Refusal :=
  transacted (takeVerb f 2 0x45 (lineConfig silenceable)) s

end Sys2Proof.Machine
end

