-- ==== Sys2Proof/Machine/Close.lean ====
section
/-! DEFINITION. A round close from end to end (R41, R67, R86, R94): the stage sample, the evaluation of the ratings, the
flow sample, and its takers the watch unit and the gauging unit, all at the one close event. -/

namespace Sys2Proof.Machine

/-- R57: the selector's attention members for a sample, `before` being the quality that counts as the previous one. -/
def markSample (before : Quality) (x : StageSample) (s : State) : State :=
  addMemberIf (before != x.quality) .qualityChange (addMemberIf x.sourceChanged .sourceChange s)

/-- R67, R69: the ratings are evaluated at a stage sample. -/
def evaluateRatings (t : Nat) (s : State) : State :=
  addMemberIf (evaluationMoves t s.ratings) .ratingSwap { s with ratings := evaluateStore t s.ratings }

/-- R94: a flow sample is published: the discharge unit keeps it, and the watch unit and the gauging unit take it. -/
def publishFlow (x : FlowSample) (s : State) : State :=
  gaugingTakeFlow x.sample (watchesTake x { s with lastFlow := some x })

/-- R67, R86: a stage sample is published. -/
def publishSample (x : StageSample) (s : State) : State :=
  let t := evaluateRatings x.time s
  publishFlow (flowOf t.ratings x) t

/-- R34, R41: the selector is handed a round's result and publishes one stage sample. -/
def handRound (recs : List ReadingRecord) (s : State) : State :=
  let sel := closeSelector s.host.time s.ports recs s.selector
  match sel.lastSample with
  | some x => publishSample x (markSample s.selector.previousQuality x { s with selector := sel })
  | none => { s with selector := sel }

end Sys2Proof.Machine
end

