-- ==== Sys2Proof/Machine/Bus.lean ====
section
/-! DEFINITION. The sensor bus as a line with users (R26, R31 to R34): the receiver's hold and release, freeing the line and
granting it to the queue, the turns of a poll round and its close. The events stand in BusEvents.lean. -/

namespace Sys2Proof.Machine

/-! ## The receiver -/

/-- R26: the receiver turned on at the end of a master frame. -/
def Receiver.turnedOn (_ : Receiver) : Receiver := .reset

/-- R24: the receiver turned off while the part sends. -/
def Receiver.turnedOff (r : Receiver) : Receiver := { r with mode := .off }

/-- R28: the receiver when an exchange is over: the assembler has nothing more to take. A character in reception stays in
reception, so that it completes as a stray; a receiver that was off listens again, from its next sample on. -/
def Receiver.released (r : Receiver) : Receiver where
  lastHigh := r.mode != .off && r.lastHigh
  mode := match r.mode with
    | .off => .hunting
    | .hunting | .receiving | .waitHigh => r.mode
  holding := none
  taken := []
  overrun := false

/-- R33: a character in reception is dropped: the receiver hunts again, from its next sample on. -/
def Receiver.dropped (r : Receiver) : Receiver :=
  match r.mode with
  | .receiving => { r with mode := .hunting, lastHigh := false }
  | .hunting | .waitHigh | .off => r

/-- R26, R29: the characters of a reply at its end; the assembler takes the one still held. -/
def Receiver.assembled (r : Receiver) : List RxChar := r.taken ++ r.holding.toList

/-! ## The line -/

/-- R23, R31: the bus when the line becomes free: a pending divisor is applied at that moment. -/
def Bus.freed (b : Bus) : Bus :=
  { b with
    holder := .free, phase := .idle, roundTodo := [], roundPolls := [], rx := b.rx.released
    divisor := b.pendingDivisor.getD b.divisor, pendingDivisor := none }

/-- The state with its bus rewritten. -/
def withBus (f : Bus → Bus) (s : State) : State := { s with bus := f s.bus }

/-- R31: the line becomes free. -/
def freeLine (s : State) : State := withBus Bus.freed s

/-- R16, R33: the ports that a poll round starting now takes as its members. -/
def roundMembers (ports : Vector Port 4) : List (Fin 4) :=
  (List.finRange 4).filter fun p => (ports.get p).state.polled

/-- R31, R33: a user takes the line; its frame waits to begin. A round fixes its members. -/
def Bus.taken (u : LineUser) (members : List (Fin 4)) (b : Bus) : Bus :=
  { b with holder := .user u, phase := .awaitFrame, roundTodo := members, roundPolls := [] }

/-- R34: the reading record of a poll, for a member that is ONLINE at the close. -/
def recordAt (ports : Vector Port 4) (x : Poll) : Option ReadingRecord :=
  let r := ports.get x.port
  if r.state = .online then
    some { port := x.port, raw := x.reading.map (·.1), head := x.reading.map (·.2),
           valid := x.reading.any fun y => y.2 != .failed, silent := r.silent }
  else none

/-- R34: the reading records of a round at its close. -/
def recordsAt (ports : Vector Port 4) (polls : List Poll) : List ReadingRecord := polls.filterMap (recordAt ports)

/-- R31: the line, being free, is given to the entries of a queue in turn; a round with no members closes at its start
(R33) and the next entry is served. -/
def grantFrom : List LineUser → State → State
  | [], s => withBus (fun b => { b with queue := [] }) s
  | .round :: rest, s =>
    let members := roundMembers s.ports
    if members.isEmpty then grantFrom rest (handRound [] s)
    else withBus (fun b => { b with queue := rest }.taken .round members) s
  | .ident p :: rest, s => withBus (fun b => { b with queue := rest }.taken (.ident p) []) s
  | .zero p :: rest, s => withBus (fun b => { b with queue := rest }.taken (.zero p) []) s

/-- R31: the arbiter gives a free line to the front of the queue. -/
def serveLine (s : State) : State := if s.bus.holder = .free then grantFrom s.bus.queue s else s

/-- R31: a user arrives: it takes a free line with an empty queue at once, and joins the back of the queue otherwise. -/
def placeUser (u : LineUser) (s : State) : State :=
  if s.bus.holder = .free ∧ s.bus.queue = [] then grantFrom [u] s
  else withBus (fun b => { b with queue := b.queue ++ [u] }) s

/-- R34: the round in flight closes: the line is free, and the selector is handed the result. -/
def closeRound (s : State) : State := serveLine (handRound (recordsAt s.ports s.bus.roundPolls) (freeLine s))

/-- R33: the members of a round from the first that is still to be polled. -/
def membersLeft (ports : Vector Port 4) (todo : List (Fin 4)) : List (Fin 4) :=
  todo.dropWhile fun p => !(ports.get p).state.polled

/-- R33: the round goes on with the members left, or closes. -/
def advanceRound (todo : List (Fin 4)) (s : State) : State :=
  match membersLeft s.ports todo with
  | [] => closeRound s
  | left => withBus (fun b => { b with roundTodo := left, phase := .awaitFrame, rx := b.rx.released }) s

/-- R33, R36: whether a frame is being sent or its reply waited for or assembled. -/
def Bus.exchanging (b : Bus) : Bool :=
  match b.phase with
  | .sending _ | .window _ | .reply _ => true
  | .idle | .awaitFrame => false

/-- R33, R36: the exchange of a user is abandoned as its port leaves: a character in reception is dropped. R35 does not drop
one, so an identity exchange does not (notes/assumptions/33.md). -/
def Bus.cutOff (u : LineUser) (b : Bus) : Bus :=
  if b.holder = .user u ∧ b.exchanging = true then { b with rx := b.rx.dropped } else b

/-- R31: an exchange has ended: the line becomes free and is given on. -/
def endUser (s : State) : State := serveLine (freeLine s)

/-! ## Reply status -/

/-- The reply status of a port rewritten. -/
def putStatus (p : Fin 4) (f : ReplyStatus → ReplyStatus) (s : State) : State :=
  withBus (fun b => { b with status := putAt b.status p (f (b.status.get p)) }) s

/-- R30: the reply status when the port enters IDENTIFYING: every field but the zero outcome at its reset value. -/
def ReplyStatus.forNewHead (x : ReplyStatus) : ReplyStatus := { ReplyStatus.reset with zero := x.zero }

/-- R36: a zero exchange ends with an outcome, which sets the port's member. -/
def zeroEnds (p : Fin 4) (o : ZeroOutcome) (s : State) : State :=
  addMember (.port p) (putStatus p (fun x => { x with zero := o }) s)

end Sys2Proof.Machine
end

