-- ==== Sys2Proof/Machine/Ports.lean ====
section
/-! DEFINITION. The port controller (chapter 1): the write of a port record with its lamp, silent field and member, the
consequences of a change of state for the power queue, the line and the sequencer, and the port verbs and events. -/

namespace Sys2Proof.Machine

/-! ## Writing a port record -/

/-- R5, R17: a rewritten record with its silent field and blink set anew from the record it replaces. -/
def Port.settled (old r : Port) : Port :=
  let r1 := { r with silent := r.silentNow }
  { r1 with blinkLit := if r1.lamp = old.lamp then old.blinkLit else r1.lamp.blinks }

/-- R22: whether a rewrite of a port record sets the port's member. -/
def Port.marks (old new : Port) : Bool := old.state != new.state || old.silent != new.silent

/-- R5, R17, R22: a port record is written. -/
def storePort (p : Fin 4) (r : Port) (s : State) : State :=
  let old := s.ports.get p
  let new := old.settled r
  addMemberIf (old.marks new) (.port p) { s with ports := putAt s.ports p new }

/-- R8, R9: the power-good wait of a mode, started when a port enters POWERING. -/
def PgMode.wait : PgMode → PortTimer
  | .input => .powerGoodWait 2000
  | .fixed100 => .fixedDelay 100
  | .fixed250 => .fixedDelay 250
  | .fixed500 => .fixedDelay 500

/-- R7: whether some port is in POWERING. -/
def anyPowering (ports : Vector Port 4) : Bool := ports.toList.any fun r => r.state == .powering

/-- R7: the power sequencer takes the port at the front of the queue when none is in POWERING. -/
def sequencerTake (s : State) : State :=
  match s.powerQueue with
  | [] => s
  | p :: rest =>
    if anyPowering s.ports then s
    else
      let r := s.ports.get p
      storePort p { r with state := .powering, timer := some r.pgMode.wait } { s with powerQueue := rest }

/-! ## What leaving a state does elsewhere -/

/-- R7: a port that leaves WAITING leaves the power queue. -/
def leaveQueue (p : Fin 4) (old new : PortState) (s : State) : State :=
  if old = .waiting ∧ new ≠ .waiting then { s with powerQueue := s.powerQueue.erase p } else s

/-- A user leaves the line or the line queue without an outcome; what waits is then served. -/
def dropUser (u : LineUser) (s : State) : State :=
  if s.bus.holder = .user u then endUser s
  else withBus (fun b => { b with queue := b.queue.erase u }) s

/-- R10, R35: a port that leaves IDENTIFYING withdraws its request or ends its attempt in flight. -/
def leaveIdent (p : Fin 4) (old new : PortState) (s : State) : State :=
  if old = .identifying ∧ new ≠ .identifying then dropUser (.ident p) s else s

/-- R36: whether a zero user of a port holds the line or is queued. -/
def Bus.hasZero (p : Fin 4) (b : Bus) : Bool := b.holder == .user (.zero p) || b.queue.contains (.zero p)

/-- R36: a port that leaves ONLINE has its zero user cancelled, an exchange in flight released as R33 releases a poll. -/
def leaveZero (p : Fin 4) (old new : PortState) (s : State) : State :=
  if old = .online ∧ new ≠ .online ∧ s.bus.hasZero p = true then
    dropUser (.zero p) (withBus (Bus.cutOff (.zero p)) (zeroEnds p .cancelled s))
  else s

/-- R33: whether the round's poll of a port is in flight. -/
def Bus.polling (p : Fin 4) (b : Bus) : Bool :=
  b.holder == .user .round && b.roundTodo.head? == some p && b.exchanging

/-- R33: a member that leaves ONLINE and REMOVING while its poll is in flight ends that poll with no result; a
character in reception is dropped. -/
def leavePoll (p : Fin 4) (old new : PortState) (s : State) : State :=
  if old.polled = true ∧ new.polled = false ∧ s.bus.polling p = true then
    advanceRound (s.bus.roundTodo.drop 1) (withBus (Bus.cutOff .round) s)
  else s

/-- A port record is written with a change of state and all that follows from it at the same event: R22, R7, R10, R36 and
R33, and the sequencer's next take (R7). A line that this frees is given on after the record is written (DESIGN CHOICE,
notes/assumptions/60.md). -/
def movePort (p : Fin 4) (r : Port) (s : State) : State :=
  let old := (s.ports.get p).state
  sequencerTake (leavePoll p old r.state (leaveZero p old r.state (leaveIdent p old r.state
    (leaveQueue p old r.state (storePort p r s)))))

/-! ## The states a record goes to -/

/-- R10, R17: a record that enters EMPTY. -/
def Port.emptied (r : Port) : Port :=
  { r with state := .empty, faultCause := none, missCount := 0, identity := none, timer := none }

/-- R11, R12: a record that enters FAULTED. -/
def Port.faulted (c : FaultCause) (r : Port) : Port := { r with state := .faulted, faultCause := some c, timer := none }

/-- R10, R18: a record that enters or restarts IDENTIFYING. -/
def Port.identifying (r : Port) : Port :=
  { r with state := .identifying, attempts := 0, missCount := 0, identity := none, timer := none }

/-- R6: whether an EMPTY port has all four conditions for power. -/
def Port.wantsPower (r : Port) : Bool :=
  r.state == .empty && r.present && r.latchClosed && r.enabled && !r.removedNotPulled

/-- R6, R7: an EMPTY record goes to WAITING when it has the four conditions. -/
def Port.requested (r : Port) : Port := if r.wantsPower then { r with state := .waiting } else r

/-- R6: a record is written, going to WAITING and joining the power queue when it has the four conditions. -/
def offerPower (p : Fin 4) (r : Port) (s : State) : State :=
  let t := storePort p r.requested s
  if r.wantsPower then sequencerTake { t with powerQueue := t.powerQueue ++ [p] } else t

/-- R10, R30, R35: a port goes from POWERING to IDENTIFYING and places its identity request. -/
def beginIdentify (p : Fin 4) (s : State) : State :=
  placeUser (.ident p) (movePort p (s.ports.get p).identifying (putStatus p ReplyStatus.forNewHead s))

/-! ## Verbs -/

/-- R7: the place of a port in the power queue, from 1 at the front. -/
def queuePosition (q : List (Fin 4)) (p : Fin 4) : Option Nat := (q.idxOf? p).map (· + 1)

/-- R21: what a port verb's response carries. -/
def portBody (p : Fin 4) (s : State) : Body := .port (s.ports.get p) (queuePosition s.powerQueue p) s.powerQueue

/-- An OK answer with the port as it stands. -/
def okPort (p : Fin 4) (s : State) : State × Answer := (s, ⟨.ok, portBody p s⟩)

/-- R3: the six host-given fields. -/
structure PortFields where
  kind : HeadKind
  address : Nat
  datum : Int
  cls : Nat
  pgMode : PgMode
  missLimit : Nat
  deriving DecidableEq, Repr

/-- R3, check 2: the host-given fields when each lies in its range in R1. -/
def portFields (kind address : Byte) (datum : Word) (cls mode missLimit : Byte) : Option PortFields :=
  match headKindOf kind, pgModeOf mode with
  | some k, some m =>
    if 1 ≤ address.toNat ∧ address.toNat ≤ 30 ∧ inRange (-60000) 60000 datum.toInt = true ∧ 1 ≤ cls.toNat ∧
        cls.toNat ≤ 4 ∧ 1 ≤ missLimit.toNat ∧ missLimit.toNat ≤ 10 then
      some ⟨k, address.toNat, datum.toInt, cls.toNat, m, missLimit.toNat⟩
    else none
  | _, _ => none

/-- R3, check 3: whether another port holds a bus address. -/
def addressTaken (ports : Vector Port 4) (p : Fin 4) (a : Nat) : Bool :=
  (List.finRange 4).any fun q => q != p && (ports.get q).address == a

/-- R3, check 4: whether the verb would change a field that a powered port holds fixed. -/
def PortFields.changesFixed (f : PortFields) (r : Port) : Bool :=
  f.kind != r.kind || f.address != r.address || f.pgMode != r.pgMode

/-- R3: the record with its host-given fields written. -/
def PortFields.into (f : PortFields) (r : Port) : Port :=
  { r with kind := f.kind, address := f.address, datum := f.datum, cls := f.cls, pgMode := f.pgMode,
           missLimit := f.missLimit }

/-- R3: PORT_CONFIG. -/
def portConfig (port kind address : Byte) (datum : Word) (cls mode missLimit : Byte) (s : State) : State × Answer :=
  match keyOf 4 port, portFields kind address datum cls mode missLimit with
  | some p, some f =>
    if addressTaken s.ports p f.address then refuse .badField .nil s
    else if (s.ports.get p).state.powered && f.changesFixed (s.ports.get p) then refuse .wrongState .nil s
    else okPort p (storePort p (f.into (s.ports.get p)) s)
  | _, _ => refuse .badField .nil s

/-- R19: what PORT_ENABLE does to the records. -/
def enablePort (p : Fin 4) (s : State) : State :=
  let r := s.ports.get p
  match r.state with
  | .disabled => offerPower p { r.emptied with enabled := true, removedNotPulled := false } s
  | .empty =>
    if !r.enabled then offerPower p { r with enabled := true } s
    else if r.removedNotPulled then offerPower p { r with removedNotPulled := false } s
    else s
  | .faulted => offerPower p { r.emptied with enabled := true } s
  | .waiting | .powering | .identifying | .online | .removing => s

/-- R19: PORT_ENABLE. -/
def portEnable (port : Byte) (s : State) : State × Answer :=
  match keyOf 4 port with
  | none => refuse .badField .nil s
  | some p => okPort p (enablePort p s)

/-- R20: what PORT_DISABLE does to the records. -/
def disablePort (p : Fin 4) (s : State) : State :=
  let r := s.ports.get p
  match r.state with
  | .empty | .waiting | .powering | .identifying | .online | .removing =>
    movePort p
      { r with state := .disabled, enabled := false, missCount := 0, identity := none, removedNotPulled := false,
               timer := none } s
  | .faulted => storePort p { r with enabled := false } s
  | .disabled => s

/-- R20: PORT_DISABLE. -/
def portDisable (port : Byte) (s : State) : State × Answer :=
  match keyOf 4 port with
  | none => refuse .badField .nil s
  | some p => okPort p (disablePort p s)

/-- R21: PORT_READ. -/
def portRead (port : Byte) (s : State) : State × Answer :=
  match keyOf 4 port with
  | none => refuse .badField .nil s
  | some p => okPort p s

/-! ## Events -/

/-- R2, R6: presence arrival. -/
def presenceArrives (p : Fin 4) (s : State) : State := offerPower p { s.ports.get p with present := true } s

/-- R13: presence loss. -/
def presenceLost (p : Fin 4) (s : State) : State :=
  let r := s.ports.get p
  if r.state = .empty then storePort p { r with present := false, removedNotPulled := false } s
  else movePort p { r.emptied with present := false, removedNotPulled := false, attempts := 0 } s

/-- R2, R6: latch closing. -/
def latchCloses (p : Fin 4) (s : State) : State := offerPower p { s.ports.get p with latchClosed := true } s

/-- R12: latch opening. -/
def latchOpens (p : Fin 4) (s : State) : State :=
  let r := { s.ports.get p with latchClosed := false }
  match r.state with
  | .powering | .identifying | .online | .removing => movePort p (r.faulted .latchOpened) s
  | .waiting => movePort p r.emptied s
  | .empty | .faulted | .disabled => storePort p r s

/-- R2, R14, R15: a button press, with the level it leaves. -/
def buttonPressed (p : Fin 4) (s : State) : State :=
  let r := { s.ports.get p with button := true }
  match r.state with
  | .online => movePort p { r with state := .removing, timer := some (.holdOff 5000) } s
  | .removing => movePort p { r with state := .online, timer := none } s
  | .waiting => movePort p { r.emptied with removedNotPulled := true } s
  | .empty | .powering | .identifying | .faulted | .disabled => storePort p r s

/-- R9, R11: whether a status assertion is a power fault of a record. -/
def Port.faultsOnStatus (r : Port) : Bool :=
  match r.state, r.timer with
  | .identifying, _ | .online, _ | .removing, _ => true
  | .powering, some (.fixedDelay _) => true
  | _, _ => false

/-- R11: a status assertion. -/
def statusAsserts (p : Fin 4) (s : State) : State :=
  let r := { s.ports.get p with statusAsserted := true }
  if r.faultsOnStatus then movePort p (r.faulted .powerFault) s else storePort p r s

/-- R2, R8: a status release. -/
def statusReleases (p : Fin 4) (s : State) : State := storePort p { s.ports.get p with statusAsserted := false } s

/-- R8: whether a record waits for power good, or for the power-good timer's expiry. -/
def Port.awaitsPowerGood (r : Port) : Bool :=
  match r.state, r.timer with
  | .powering, some (.powerGoodWait _) => true
  | _, _ => false

/-- R9: whether a record waits for the end of a fixed delay. -/
def Port.awaitsDelay (r : Port) : Bool :=
  match r.state, r.timer with
  | .powering, some (.fixedDelay _) => true
  | _, _ => false

/-- R14: whether a record's hold-off runs. -/
def Port.awaitsHoldOff (r : Port) : Bool :=
  match r.state, r.timer with
  | .removing, some (.holdOff _) => true
  | _, _ => false

/-- R8: power good, the first moment of a released status line; while PFL_n stands asserted it is delayed
(notes/assumptions/45.md). -/
def powerComesGood (p : Fin 4) (s : State) : State :=
  if (s.ports.get p).awaitsPowerGood && !(s.ports.get p).statusAsserted then beginIdentify p s else s

/-- R8: the power-good timer expires. -/
def powerTimesOut (p : Fin 4) (s : State) : State :=
  if (s.ports.get p).awaitsPowerGood then movePort p ((s.ports.get p).faulted .pgTimeout) s else s

/-- R9: the fixed delay ends. -/
def delayEnds (p : Fin 4) (s : State) : State := if (s.ports.get p).awaitsDelay then beginIdentify p s else s

/-- R14: the hold-off expires. -/
def holdOffExpires (p : Fin 4) (s : State) : State :=
  if (s.ports.get p).awaitsHoldOff then movePort p { (s.ports.get p).emptied with removedNotPulled := true } s else s

/-- R5: a half of a lamp's blink ends. -/
def lampBlinks (p : Fin 4) (s : State) : State :=
  let r := s.ports.get p
  if r.lamp.blinks then { s with ports := putAt s.ports p { r with blinkLit := !r.blinkLit } } else s

/-! ## Meanings -/

/-- The meaning of PORT_CONFIG. -/
def execPortConfig (f : FrameLen) (port kind address : Byte) (datum : Word) (cls mode missLimit : Byte) (s : State) :
    Host.Outcome State Fault Refusal :=
  transacted (takeVerb f 11 0x10 (portConfig port kind address datum cls mode missLimit)) s

/-- The meaning of PORT_ENABLE. -/
def execPortEnable (f : FrameLen) (port : Byte) (s : State) : Host.Outcome State Fault Refusal :=
  transacted (takeVerb f 2 0x11 (portEnable port)) s

/-- The meaning of PORT_DISABLE. -/
def execPortDisable (f : FrameLen) (port : Byte) (s : State) : Host.Outcome State Fault Refusal :=
  transacted (takeVerb f 2 0x12 (portDisable port)) s

/-- The meaning of PORT_READ. -/
def execPortRead (f : FrameLen) (port : Byte) (s : State) : Host.Outcome State Fault Refusal :=
  transacted (takeVerb f 2 0x13 (portRead port)) s

/-- The meaning of PRESENCE_ARRIVAL. -/
def execPresenceArrival (p : Fin 4) (s : State) : Host.Outcome State Fault Refusal := live (presenceArrives p) s

/-- The meaning of PRESENCE_LOSS. -/
def execPresenceLoss (p : Fin 4) (s : State) : Host.Outcome State Fault Refusal := live (presenceLost p) s

/-- The meaning of LATCH_CLOSING. -/
def execLatchClosing (p : Fin 4) (s : State) : Host.Outcome State Fault Refusal := live (latchCloses p) s

/-- The meaning of LATCH_OPENING. -/
def execLatchOpening (p : Fin 4) (s : State) : Host.Outcome State Fault Refusal := live (latchOpens p) s

/-- The meaning of BUTTON_PRESS. -/
def execButtonPress (p : Fin 4) (s : State) : Host.Outcome State Fault Refusal := live (buttonPressed p) s

/-- The meaning of STATUS_ASSERTION. -/
def execStatusAssertion (p : Fin 4) (s : State) : Host.Outcome State Fault Refusal := live (statusAsserts p) s

/-- The meaning of STATUS_RELEASE. -/
def execStatusRelease (p : Fin 4) (s : State) : Host.Outcome State Fault Refusal := live (statusReleases p) s

/-- The meaning of POWER_GOOD. -/
def execPowerGood (p : Fin 4) (s : State) : Host.Outcome State Fault Refusal := live (powerComesGood p) s

/-- The meaning of PG_TIMEOUT. -/
def execPgTimeout (p : Fin 4) (s : State) : Host.Outcome State Fault Refusal := live (powerTimesOut p) s

/-- The meaning of FIXED_DELAY_END. -/
def execFixedDelayEnd (p : Fin 4) (s : State) : Host.Outcome State Fault Refusal := live (delayEnds p) s

/-- The meaning of HOLD_OFF_EXPIRY. -/
def execHoldOffExpiry (p : Fin 4) (s : State) : Host.Outcome State Fault Refusal := live (holdOffExpires p) s

/-- The meaning of LAMP_BLINK. -/
def execLampBlink (p : Fin 4) (s : State) : Host.Outcome State Fault Refusal := live (lampBlinks p) s

/-- The meaning of POWER_SEQUENCER_TAKE (notes/assumptions/8.md). -/
def execPowerSequencerTake (s : State) : Host.Outcome State Fault Refusal := live sequencerTake s

end Sys2Proof.Machine
end

