-- ==== Sys2Proof/Machine/BusEvents.lean ====
section
/-! DEFINITION. The events and verbs of the sensor bus (chapter 2): the stage cycle, master frames, replies and their
checks, identity attempts and zero exchanges, strays, the break, and HEAD_ZERO, BUS_CONFIG and BUS_RESTART. -/

namespace Sys2Proof.Machine

/-! ## The stage cycle (R32) -/

/-- R32: whether a round holds the line or waits in its queue. -/
def Bus.hasRound (b : Bus) : Bool := b.holder == .user .round || b.queue.contains .round

/-- R32: a stage cycle expiry: the timer starts again and a poll round is offered. -/
def cycleExpires (s : State) : State :=
  let t := withBus (fun b => { b with cycleLeft := some (b.period * 1000) }) s
  if s.bus.hasRound then addMember .roundOverrun t else placeUser .round t

/-! ## Master frames (R24, R27, R188) -/

/-- The bits of a byte as a character sends them (R24, R123): the least significant first. -/
def bitsLow (b : Byte) : List Bool := (List.range 8).map b.getLsbD

/-- R24: the 11 bits of a sensor bus character: a low start bit, the data, the mark, and a high stop bit. -/
def TxChar.bits (c : TxChar) : List Bool := false :: (bitsLow c.data ++ [c.mark, true])

/-- R24: the bits of the master frame last begun, its characters back to back. -/
def Bus.sentBits (b : Bus) : List Bool := b.txFrame.flatMap TxChar.bits

/-- R188: the three characters of a master frame: the address with its mark, the verb, and a length of 0. -/
def masterFrame (addr : Nat) (verb : Byte) : List TxChar := [⟨BitVec.ofNat 8 addr, true⟩, ⟨verb, false⟩, ⟨0, false⟩]

/-- R24: the part begins to send a frame to a port's address; its receiver is off. -/
def sendFrame (p : Fin 4) (verb : Byte) (s : State) : State :=
  let a := (s.ports.get p).address
  withBus (fun b => { b with phase := .sending a, txFrame := masterFrame a verb, rx := b.rx.turnedOff }) s

/-- R33: at a member's turn the round polls it, or skips those that have left and polls the next, or closes. -/
def pollNext (s : State) : State :=
  match membersLeft s.ports s.bus.roundTodo with
  | [] => closeRound s
  | p :: rest => sendFrame p 0x21 (withBus (fun b => { b with roundTodo := p :: rest }) s)

/-- R24: whether the user that holds the line may begin its frame. -/
def Bus.mayBegin (b : Bus) : Bool := b.phase == .awaitFrame && !b.awaitIdle

/-- R24, R33, R35, R36: the user that holds the line begins its frame. -/
def frameBegins (s : State) : State :=
  if s.bus.mayBegin then
    match s.bus.holder with
    | .user .round => pollNext s
    | .user (.ident p) => sendFrame p 0x22 s
    | .user (.zero p) => sendFrame p 0x23 s
    | .free | .brk | .recovery => s
  else s

/-- R24, R26, R28: the master frame ends: the receiver is turned on and the reply window opens. -/
def Bus.frameEnded (b : Bus) : Bus :=
  match b.phase with
  | .sending a => { b with phase := .window a, rx := b.rx.turnedOn }
  | .idle | .awaitFrame | .window _ | .reply _ => b

/-- R28: a start bit is accepted: inside the window it begins the reply. The receiver can accept one only after a high sample
and a low one (R25), so whatever it did before it now receives (DEDUCED, notes/assumptions/33.md). -/
def Bus.startBit (b : Bus) : Bus :=
  match b.phase with
  | .sending _ => b
  | .window a => { b with phase := .reply a, rx := { b.rx with mode := .receiving } }
  | .idle | .awaitFrame | .reply _ => { b with rx := { b.rx with mode := .receiving } }

/-! ## Characters (R25, R26) -/

/-- R25: the value of bit `k` of a character from the line's samples, counted from sample 0 of the start bit: the level
held by at least two of samples 7, 8 and 9 of the bit. A sample beyond those given is high, the resting line. -/
def bitAt (samples : List Bool) (k : Nat) : Bool :=
  let x := samples.getD (16 * k + 7) true
  let y := samples.getD (16 * k + 8) true
  let z := samples.getD (16 * k + 9) true
  (x && y) || (x && z) || (y && z)

/-- R24, R123: the eight data bits, least significant first. -/
def dataAt (samples : List Bool) : Byte := BitVec.ofBoolListLE ((List.range 8).map fun i => bitAt samples (i + 1))

/-- R25: the character the sensor bus receiver completes from sample 0 on; none for a false start. -/
def sbusChar (samples : List Bool) : Option RxChar :=
  if bitAt samples 0 then none else some ⟨dataAt samples, bitAt samples 9, !bitAt samples 10⟩

/-- R123: the character the winch link receiver completes from sample 0 on; none for a false start. -/
def wrxChar (samples : List Bool) : Option RxChar :=
  if bitAt samples 0 then none else some ⟨dataAt samples, false, !bitAt samples 9⟩

/-- R25: the samples from the first low one that follows a high one, which is sample 0 of a possible start bit; `high` is the
level of the sample before. -/
def findStart : Bool → List Bool → List Bool
  | _, [] => []
  | high, x :: l => if high && !x then x :: l else findStart x l

/-- R25: the samples from sample 0 of the first start bit that is no false start; after a false start the receiver hunts on
from the sample behind the bit's sample 9. `n` bounds the search. -/
def huntFrom : Nat → Bool → List Bool → List Bool
  | 0, _, _ => []
  | n + 1, high, l =>
    let run := findStart high l
    if bitAt run 0 then huntFrom n (run.getD 9 true) (run.drop 10) else run

/-- R25: where, among the samples since the receiver's latest event, the character it completes begins. A receiver that has
accepted the start bit has its samples from sample 0; one that hunts looks for a low sample after a high one; one that waits
for a high sample takes one first; one that is off hears nothing (notes/assumptions/33.md). -/
def Receiver.run (r : Receiver) (samples : List Bool) : List Bool :=
  match r.mode with
  | .receiving =>
    if bitAt samples 0 then huntFrom samples.length (samples.getD 9 true) (samples.drop 10) else samples
  | .hunting => huntFrom samples.length r.lastHigh samples
  | .waitHigh => huntFrom samples.length false samples
  | .off => []

/-- R25: the receiver after samples in which it completed no character: a wait for a high sample goes on until one came. -/
def Receiver.heard (samples : List Bool) (r : Receiver) : Receiver :=
  match r.mode with
  | .off => r
  | .waitHigh =>
    if samples.contains true then { r with mode := .hunting, lastHigh := samples.getLastD r.lastHigh } else r
  | .hunting | .receiving => { r with mode := .hunting, lastHigh := samples.getLastD r.lastHigh }

/-- R25: what the receiver does after a character: a framing error makes it wait for a high sample. -/
def modeAfter (c : RxChar) : RxMode := if c.framing then .waitHigh else .hunting

/-- R25: the receiver at a character's completion, at the last of the samples. -/
def Receiver.completedAt (samples : List Bool) (c : RxChar) (r : Receiver) : Receiver :=
  { r with mode := modeAfter c, lastHigh := samples.getLastD false }

/-- R26: a completed character goes to the holding buffer; `heldTaken` says whether the assembler had by then taken the
one held. Otherwise the newer is lost and the overrun noted. `keep` says whether what the assembler takes is kept. -/
def Receiver.complete (keep : Bool) (c : RxChar) (heldTaken : Bool) (r : Receiver) : Receiver :=
  match r.holding with
  | none => { r with holding := some c }
  | some h =>
    if heldTaken then { r with taken := if keep then r.taken ++ [h] else r.taken, holding := some c }
    else { r with overrun := keep || r.overrun }

/-- R28: whether the bus is in a reply window or assembling a reply, so that a character is no stray. -/
def Bus.inReply (b : Bus) : Bool :=
  match b.phase with
  | .window _ | .reply _ => true
  | .idle | .awaitFrame | .sending _ => false

/-- R24: whether the sensor bus receiver is off because the part sends. -/
def Bus.deaf (b : Bus) : Bool :=
  match b.phase with
  | .sending _ => true
  | .idle | .awaitFrame | .window _ | .reply _ => false

/-- R28: the bus with its reply begun, when its window is open (notes/assumptions/13.md). -/
def Bus.replyBegun (b : Bus) : Bus :=
  match b.phase with
  | .window a => { b with phase := .reply a }
  | .idle | .awaitFrame | .sending _ | .reply _ => b

/-- R25, R26, R28: the sensor bus receiver completes a character, or finds a false start. -/
def sbusCompletes (samples : List Bool) (heldTaken : Bool) (s : State) : State :=
  if s.bus.deaf then s
  else match sbusChar (s.bus.rx.run samples) with
    | none => withBus (fun b => { b with rx := b.rx.heard samples }) s
    | some c =>
      if s.bus.inReply then
        withBus (fun b => { b.replyBegun with rx := (b.rx.completedAt samples c).complete true c heldTaken }) s
      else addMember .busError
        (withBus (fun b => { b with rx := (b.rx.completedAt samples c).complete false c heldTaken }) s)

/-- R28: a stray character is discarded and sets BUS_ERROR. -/
def strayComes (s : State) : State := if s.bus.deaf || s.bus.inReply then s else addMember .busError s

/-! ## Replies (R27 to R29, R188) -/

/-- The work of an exchange (R27). -/
inductive Work where
  | poll | ident | zero
  deriving DecidableEq, Repr

/-- R29: the payload length of a verb's reply. -/
def Work.payload : Work → Nat
  | .poll => 4
  | .ident => 6
  | .zero => 0

/-- R188: head status. -/
def headStatusOf (b : Byte) : Option HeadStatus :=
  match b.toNat with
  | 0 => some .ok
  | 1 => some .degraded
  | 2 => some .failed
  | _ => none

/-- R29: the total of the characters modulo 256. -/
def sumOf (chars : List Byte) : Byte := chars.foldl (· + ·) 0

/-- R29, check 8: whether the content of a reply of the right length fails. -/
def contentFails (w : Work) (chars : List Byte) : Bool :=
  match w with
  | .poll => chars.getD 1 0 != 0 || (headStatusOf (chars.getD 6 0)).isNone
  | .ident => chars.getD 1 0 != 0
  | .zero => decide (1 < (chars.getD 1 0).toNat)

/-- R29: the first check, of 2 to 8, that a reply fails. -/
def garbleOf (w : Work) (addr : Nat) (overrun : Bool) (chars : List RxChar) : Option GarbleCause :=
  let data := chars.map (·.data)
  if chars.any (·.framing) then some .framing
  else if overrun then some .overrun
  else if chars.any (·.mark) then some .mark
  else if data.head? ≠ some (BitVec.ofNat 8 addr) then some .address
  else if (data.getD 2 0).toNat ≠ w.payload ∨ data.length ≠ 4 + w.payload then some .length
  else if sumOf data ≠ 0 then some .sum
  else if contentFails w data then some .content
  else none

/-- How an exchange ended: with a good reply's characters, or in a miss (R28, R29). -/
inductive ReplyEnd where
  | good (chars : List Byte)
  | noReply
  | garbled (c : GarbleCause)
  deriving DecidableEq, Repr

/-- R29: the end of a reply found idle. -/
def replyOf (w : Work) (addr : Nat) (rx : Receiver) : ReplyEnd :=
  match garbleOf w addr rx.overrun rx.assembled with
  | some c => .garbled c
  | none => .good (rx.assembled.map (·.data))

/-- R188: the raw reading of a POLL reply, three characters, signed, least significant first. -/
def rawOf (chars : List Byte) : Int := (chars.getD 5 0 ++ chars.getD 4 0 ++ chars.getD 3 0).toInt

/-- R188: the reading of a good POLL reply. -/
def readingOf (chars : List Byte) : Int × HeadStatus := (rawOf chars, (headStatusOf (chars.getD 6 0)).getD .failed)

/-- R188: the identity of a good IDENT reply. -/
def identityOf (chars : List Byte) : Identity where
  kindCode := chars.getD 3 0
  firmware := chars.getD 4 0
  serial := chars.getD 8 0 ++ chars.getD 7 0 ++ chars.getD 6 0 ++ chars.getD 5 0

/-- R30: the reply status after a miss or a good reply, but for the fields a POLL alone writes. -/
def ReplyStatus.afterEnd (e : ReplyEnd) (x : ReplyStatus) : ReplyStatus :=
  match e with
  | .good _ => { x with garble := none }
  | .noReply => x
  | .garbled c => { x with garble := some c }

/-- R30: the reply status after a poll ended at a station time. -/
def ReplyStatus.afterPoll (t : Nat) (e : ReplyEnd) (x : ReplyStatus) : ReplyStatus :=
  match e with
  | .good chars => { x.afterEnd e with lastPoll := .valid, lastReading := some (readingOf chars), lastGood := some t }
  | .noReply => { x.afterEnd e with lastPoll := .noReply }
  | .garbled _ => { x.afterEnd e with lastPoll := .garbled }

/-- R17: the record of a port after a poll result, which is discarded outside ONLINE and REMOVING (R16). -/
def Port.polledWith (e : ReplyEnd) (r : Port) : Port :=
  if r.state.polled then
    match e with
    | .good _ => { r with missCount := 0 }
    | .noReply | .garbled _ => { r with missCount := saturatingSucc 255 r.missCount }
  else r

/-- R34: the reading of a poll's end. -/
def ReplyEnd.reading : ReplyEnd → Option (Int × HeadStatus)
  | .good chars => some (readingOf chars)
  | .noReply | .garbled _ => none

/-- R17, R30, R33: the poll of the round's first member has ended. -/
def pollEnds (e : ReplyEnd) (s : State) : State :=
  match s.bus.roundTodo with
  | [] => closeRound s
  | p :: rest =>
    advanceRound rest
      (storePort p ((s.ports.get p).polledWith e)
        (putStatus p (ReplyStatus.afterPoll s.host.time e)
          (withBus (fun b => { b with roundPolls := b.roundPolls ++ [⟨p, e.reading⟩] }) s)))

/-- R10: the record after a good identity reply. The table raises identity attempts for an unanswered attempt only, so a
good one leaves the field as it was (DEDUCED, notes/assumptions/52.md). -/
def Port.identified (x : Identity) (r : Port) : Port :=
  if reportedKind x.kindCode = some r.kind then { r with state := .online, identity := some x }
  else { r.faulted .wrongKind with identity := some x }

/-- R10: the record after an unanswered attempt. -/
def Port.unanswered (r : Port) : Port :=
  if r.attempts + 1 < 2 then { r with attempts := r.attempts + 1 }
  else { r.faulted .noIdentity with attempts := r.attempts + 1 }

/-- R10: the record after an attempt's outcome. -/
def Port.attempted (e : ReplyEnd) (r : Port) : Port :=
  match e with
  | .good chars => r.identified (identityOf chars)
  | .noReply | .garbled _ => r.unanswered

/-- R10: the port takes the outcome of an attempt; still IDENTIFYING after it, it places its second request. An outcome
for a port that has left IDENTIFYING is discarded. -/
def takeAttempt (p : Fin 4) (e : ReplyEnd) (s : State) : State :=
  let r := s.ports.get p
  if r.state = .identifying then
    let t := storePort p (r.attempted e) s
    if (r.attempted e).state = .identifying then placeUser (.ident p) t else t
  else s

/-- R10, R35: an identity attempt has ended: the line is free, the port takes the outcome, and the line is given on, in this
order (DESIGN CHOICE, notes/assumptions/60.md). -/
def identEnds (p : Fin 4) (e : ReplyEnd) (s : State) : State :=
  serveLine (takeAttempt p e (putStatus p (ReplyStatus.afterEnd e) (freeLine s)))

/-- R36: the zero outcome of an exchange's end. -/
def zeroOutcomeOf : ReplyEnd → ZeroOutcome
  | .good chars => if chars.getD 1 0 = 0 then .done else .refused
  | .noReply => .noReply
  | .garbled _ => .garbled

/-- R36: a zero exchange has ended. -/
def zeroExchangeEnds (p : Fin 4) (e : ReplyEnd) (s : State) : State :=
  endUser (zeroEnds p (zeroOutcomeOf e) (putStatus p (ReplyStatus.afterEnd e) s))

/-- The work of the user that holds the line. -/
def Holder.work : Holder → Work
  | .user (.ident _) => .ident
  | .user (.zero _) => .zero
  | .user .round | .free | .brk | .recovery => .poll

/-- R28, R29: the exchange in flight has ended; a garbled reply sets BUS_ERROR. -/
def exchangeEnds (e : ReplyEnd) (s : State) : State :=
  let t := match e with
    | .garbled _ => addMember .busError s
    | .good _ | .noReply => s
  match s.bus.holder with
  | .user .round => pollEnds e t
  | .user (.ident p) => identEnds p e t
  | .user (.zero p) => zeroExchangeEnds p e t
  | .free | .brk | .recovery => s

/-- R28: the reply window closes with no start bit accepted. -/
def windowCloses (s : State) : State :=
  match s.bus.phase with
  | .window _ => exchangeEnds .noReply s
  | .idle | .awaitFrame | .sending _ | .reply _ => s

/-- R28, R29: one character time passes without a new start bit: the reply ends and is checked. -/
def replyIdles (s : State) : State :=
  match s.bus.phase with
  | .reply a => exchangeEnds (replyOf s.bus.holder.work a s.bus.rx) s
  | .idle | .awaitFrame | .sending _ | .window _ => s

/-- R28: the reply limit: the reply ends at once, garbled, and the line waits to be found idle
(notes/assumptions/14.md). -/
def replyOverruns (s : State) : State :=
  match s.bus.phase with
  | .reply _ => exchangeEnds (.garbled .overlong) (withBus (fun b => { b with awaitIdle := true }) s)
  | .idle | .awaitFrame | .sending _ | .window _ => s

/-! ## The break (R18, R37, R38) -/

/-- R38: what a break does to the line and its queue. -/
def Bus.broken (b : Bus) : Bus :=
  { b with
    holder := .brk, phase := .idle, roundTodo := [], roundPolls := [], awaitIdle := false, rx := b.rx.released
    queue := b.queue.filter fun u => u == .round }

/-- R38: the zero exchange in flight and every queued ZERO entry end CANCELLED. -/
def cancelZeros (s : State) : State :=
  (List.finRange 4).foldl (fun t p => if s.bus.hasZero p then zeroEnds p .cancelled t else t) s

/-- R18: a port at a break: it enters or restarts IDENTIFYING and joins the queue with a new request. -/
def reidentify (p : Fin 4) (s : State) : State :=
  let r := s.ports.get p
  match r.state with
  | .online | .removing => placeUser (.ident p) (storePort p r.identifying (putStatus p ReplyStatus.forNewHead s))
  | .identifying => placeUser (.ident p) (storePort p r.identifying s)
  | .empty | .waiting | .powering | .faulted | .disabled => s

/-- R37, R38, R18: the break begins. -/
def breakBegins (s : State) : State :=
  (List.finRange 4).foldl (fun t p => reidentify p t) (withBus Bus.broken (cancelZeros s))

/-! ## Verbs -/

/-- R36: HEAD_ZERO. -/
def headZero (port : Byte) (s : State) : State × Answer :=
  match keyOf 4 port with
  | none => refuse .badField .nil s
  | some p =>
    if (s.ports.get p).state ≠ .online ∨ (s.ports.get p).kind ≠ .pressure then refuse .wrongState .nil s
    else if (s.bus.status.get p).zero = .pending then refuse .busy .nil s
    else (placeUser (.zero p) (putStatus p (fun x => { x with zero := .pending }) s), ⟨.ok, .nil⟩)

/-- R23: the divisor written: in use at once on a free line, pending on a held one, and no longer pending when it equals
the divisor in use. -/
def Bus.withDivisor (d : Nat) (b : Bus) : Bus :=
  if d = b.divisor then { b with pendingDivisor := none }
  else if b.holder = .free then { b with divisor := d, pendingDivisor := none }
  else { b with pendingDivisor := some d }

/-- R23: the period written: a different one restarts the stage cycle timer. -/
def Bus.withPeriod (n : Nat) (b : Bus) : Bus :=
  if n = b.period then b else { b with period := n, cycleLeft := some (n * 1000) }

/-- R23: BUS_CONFIG. -/
def busConfig (divisor period : Half) (s : State) : State × Answer :=
  if 4095 < divisor.toNat then refuse .badField .nil s
  else
    let t := withBus (fun b => (b.withDivisor divisor.toNat).withPeriod (clampNat 1 3600 period.toNat)) s
    (t, ⟨.ok, .bus t.bus⟩)

/-- R37: BUS_RESTART. -/
def busRestart (s : State) : State × Answer :=
  match s.bus.holder with
  | .brk | .recovery => refuse .busy .nil s
  | .free | .user _ => (breakBegins s, ⟨.ok, .nil⟩)

/-- R37: the break's low ends and the recovery follows. -/
def Bus.breakEnded (b : Bus) : Bus := if b.holder = .brk then { b with holder := .recovery } else b

/-- R37: the recovery ends: the line becomes free and the queue is served. -/
def recoveryEnds (s : State) : State := if s.bus.holder = .recovery then endUser s else s

/-- R23, R31: a pending divisor becomes the divisor in use when the line is free (notes/assumptions/8.md). -/
def Bus.applyPending (b : Bus) : Bus :=
  if b.holder = .free then { b with divisor := b.pendingDivisor.getD b.divisor, pendingDivisor := none } else b

/-! ## Meanings -/

/-- The meaning of HEAD_ZERO. -/
def execHeadZero (f : FrameLen) (port : Byte) (s : State) : Host.Outcome State Fault Refusal :=
  transacted (takeVerb f 2 0x14 (headZero port)) s

/-- The meaning of BUS_CONFIG. -/
def execBusConfig (f : FrameLen) (divisor period : Half) (s : State) : Host.Outcome State Fault Refusal :=
  transacted (takeVerb f 5 0x15 (busConfig divisor period)) s

/-- The meaning of BUS_RESTART. -/
def execBusRestart (f : FrameLen) (s : State) : Host.Outcome State Fault Refusal :=
  transacted (takeVerb f 1 0x16 busRestart) s

/-- The meaning of STAGE_CYCLE_EXPIRY. -/
def execStageCycleExpiry (s : State) : Host.Outcome State Fault Refusal := live cycleExpires s

/-- The meaning of LINE_GRANT (notes/assumptions/8.md). -/
def execLineGrant (s : State) : Host.Outcome State Fault Refusal := live serveLine s

/-- The meaning of PENDING_DIVISOR_APPLY. -/
def execPendingDivisorApply (s : State) : Host.Outcome State Fault Refusal := live (withBus Bus.applyPending) s

/-- The meaning of MASTER_FRAME_BEGIN. -/
def execMasterFrameBegin (s : State) : Host.Outcome State Fault Refusal := live frameBegins s

/-- The meaning of MASTER_FRAME_END. -/
def execMasterFrameEnd (s : State) : Host.Outcome State Fault Refusal := live (withBus Bus.frameEnded) s

/-- The meaning of REPLY_WINDOW_CLOSE. -/
def execReplyWindowClose (s : State) : Host.Outcome State Fault Refusal := live windowCloses s

/-- The meaning of REPLY_IDLE_END. -/
def execReplyIdleEnd (s : State) : Host.Outcome State Fault Refusal := live replyIdles s

/-- The meaning of REPLY_LIMIT. -/
def execReplyLimit (s : State) : Host.Outcome State Fault Refusal := live replyOverruns s

/-- The meaning of LINE_IDLE_RELEASE: the line, held up by a reply limit, is released. -/
def execLineIdleRelease (s : State) : Host.Outcome State Fault Refusal :=
  live (withBus fun b => { b with awaitIdle := false }) s

/-- The meaning of STRAY. -/
def execStray (s : State) : Host.Outcome State Fault Refusal := live strayComes s

/-- The meaning of BREAK_END. -/
def execBreakEnd (s : State) : Host.Outcome State Fault Refusal := live (withBus Bus.breakEnded) s

/-- The meaning of RECOVERY_END. -/
def execRecoveryEnd (s : State) : Host.Outcome State Fault Refusal := live recoveryEnds s

/-- The meaning of START_BIT_ACCEPTED. -/
def execStartBitAccepted (s : State) : Host.Outcome State Fault Refusal := live (withBus Bus.startBit) s

end Sys2Proof.Machine
end

