-- ==== Sys2Proof/Machine/Cableway.lean ====
section
/-! DEFINITION. The events of the cableway (chapter 7): HOLD and the contacts, the winch link's commands and messages, the
move timer, and the verbs CABLEWAY_CONFIG, CABLEWAY_HOME, CABLEWAY_HALT and CABLEWAY_READ. -/

namespace Sys2Proof.Machine

/-! ## Stops and reports (R134, R140) -/

/-- R140: the carriage goes to STOPPED, which is reported to the gauging unit from a state that reports it. -/
def stopCarriage (cause : StopCause) (c : Carriage) (s : State) : State :=
  let t := putCarriage (c.stop cause) s
  if s.carriage.state.reportsStop then takeStopped cause t else t

/-- R134: the carriage record is written; a sounding that ends at the bed reports SOUNDED. -/
def putSounding (c : Carriage) (s : State) : State :=
  let t := putCarriage c s
  if c.atBed then takeSounded (c.soundedDepth.getD 0) t else t

/-! ## HOLD and the contacts (R121, R128, R133, R134) -/

/-- R128: a HOLD assertion. -/
def holdAsserts (s : State) : State := putCarriage { s.carriage with hold := true } s

/-- R128: a HOLD release: the pending move is sent and becomes the awaited command. -/
def Carriage.unhold (c : Carriage) : Carriage :=
  match c.pendingMove with
  | some cmd => Carriage.await cmd { c with hold := false }
  | none => { c with hold := false }

/-- R128: a HOLD release. -/
def holdReleases (s : State) : State := putCarriage s.carriage.unhold s

/-- R133: the surface contact closes. -/
def Carriage.touchSurface (c : Carriage) : Carriage :=
  if c.state = .lowering ∧ c.phase = .payingOut then
    Carriage.await .halt { c with surfaceContact := true, phase := .stopping }
  else { c with surfaceContact := true }

/-- R133, R134: the bed contact closes. -/
def touchBed (s : State) : State :=
  let c := { s.carriage with bedContact := true }
  if c.phase = .payingOut then
    match c.state with
    | .lowering => stopCarriage .noSurface (c.hand .halt) s
    | .sounding => putCarriage (Carriage.await .halt { c with phase := .stopping }) s
    | .unhomed | .homing | .parked | .traversing | .setting | .waitingMeter | .raising | .returning | .stopped =>
      putCarriage c s
  else putCarriage c s

/-- R121: the release of a contact changes only its level. -/
def Carriage.release (x : Contact) (c : Carriage) : Carriage :=
  match x with
  | .surface => { c with surfaceContact := false }
  | .bed => { c with bedContact := false }

/-! ## The link (R123, R126, R127, R189) -/

/-- The low and the following bytes of a number, least significant first. -/
def leBytes : Nat → Nat → List Byte
  | 0, _ => []
  | n + 1, v => BitVec.ofNat 8 v :: leBytes n (v / 256)

/-- R189: a message: its type and payload, and the sum that brings the total to 0 modulo 256. -/
def winchMessage (chars : List Byte) : List Byte := chars ++ [0 - sumOf chars]

/-- R189: the characters of a command. -/
def WinchCommand.chars : WinchCommand → List Byte
  | .traverseTo d => winchMessage (0x31 :: leBytes 3 d)
  | .hoistTo h => winchMessage (0x32 :: leBytes 2 h)
  | .halt => winchMessage [0x33]
  | .home => winchMessage [0x34]

/-- R123: the 10 bits of a winch link character: a low start bit, the data and a high stop bit. -/
def winchBits (b : Byte) : List Bool := false :: (bitsLow b ++ [true])

/-- R123: the bits of the command last sent on WTX, its characters back to back. -/
def Carriage.sentBits (c : Carriage) : List Bool := c.wtxSent.flatMap winchBits

/-- R123, R126, R129: the last character of the command at the front of the transmit queue goes out: it joins the
outstanding list, and the move timer starts when it is the awaited command. -/
def Carriage.sent (c : Carriage) : Carriage :=
  match c.wtx with
  | [] => c
  | o :: rest =>
    { c with
      wtx := rest, wtxSent := o.command.chars, outstanding := c.outstanding ++ [o]
      moveLeft := if c.awaited = some o then some (c.moveTimeout * 1000) else c.moveLeft }

/-- R189: the length of a message by its type character, for the three types of the winch. -/
def winchLength (b : Byte) : Option Nat :=
  match b.toNat with
  | 0x41 => some 7
  | 0x42 => some 2
  | 0x43 => some 3
  | _ => none

/-- What a message of the winch says (R124): a POSITION with its distance and hoist, an ARRIVED, or a WINCH_FAULT with its
cause byte. -/
inductive WinchReport where
  | position (distance : BitVec 24) (hoist : Half)
  | arrived
  | fault (cause : Byte)
  deriving DecidableEq, Repr

/-- R189: what the characters of a whole message say, by its type character and its payload. -/
def reportOf (chars : List Byte) : Option WinchReport :=
  match (chars.getD 0 0).toNat with
  | 0x41 => some (.position (chars.getD 3 0 ++ chars.getD 2 0 ++ chars.getD 1 0) (chars.getD 5 0 ++ chars.getD 4 0))
  | 0x42 => some .arrived
  | 0x43 => some (.fault (chars.getD 1 0))
  | _ => none

/-- R189: the characters that say a report, its sum right. -/
def WinchReport.chars : WinchReport → List Byte
  | .position d h => winchMessage ([0x41, d.extractLsb' 0 8, d.extractLsb' 8 8, d.extractLsb' 16 8] ++ halfBytes h)
  | .arrived => winchMessage [0x42]
  | .fault cause => winchMessage [0x43, cause]

/-- R124: whether a POSITION reports a place off the cable or below the full hoist. -/
def WinchReport.outOfRange : WinchReport → Bool
  | .position d h => decide (maxDistance < d.toNat) || decide (fullHoist < h.toNat)
  | .arrived | .fault _ => false

/-- R124: the first check a message fails. -/
def linkErrorOf (m : WinchMessage) : Option LinkError :=
  if m.framing then some .framing
  else if m.overrun then some .overrun
  else if m.gap then some .gap
  else if m.chars.head?.all fun b => (winchLength b).isNone then some .type
  else if sumOf m.chars ≠ 0 then some .sum
  else if (reportOf m.chars).any WinchReport.outOfRange then some .range
  else none

/-- R124: how many characters the message that begins with the given ones has when it ends: its type's full length, or 1
when its type character names no type. -/
def messageLength (l : List RxChar) : Nat := ((l.head?.map (·.data)).bind winchLength).getD 1

/-- R124: whether the assembler has taken the whole of the message under assembly. -/
def Receiver.messageWhole (r : Receiver) : Bool := !r.taken.isEmpty && decide (messageLength r.taken ≤ r.taken.length)

/-- R124: the message under assembly, as the assembler has it when it ends. -/
def Receiver.message (gap : Bool) (r : Receiver) : WinchMessage where
  chars := r.taken.map (·.data)
  framing := r.taken.any (·.framing)
  overrun := r.overrun
  gap := gap

/-- R124: the assembler when its message has ended. -/
def Receiver.messageEnded (r : Receiver) : Receiver := { r with taken := [], overrun := false }

/-- The WRX receiver rewritten. -/
def withWrx (r : Receiver) (s : State) : State := { s with carriage := { s.carriage with rx := r } }

/-- R124, R141: a message is discarded with a link error. -/
def discardMessage (e : LinkError) (s : State) : State :=
  addMember .cableway { s with carriage := { s.carriage with linkError := some e } }

/-- R127: a good POSITION. -/
def positionComes (distance hoist : Nat) (s : State) : State :=
  { s with carriage := { s.carriage with distance := some distance, hoist := some hoist } }

/-- R130, R132 to R135: the answer of the awaited command is acted on; `c` is the record with the command answered. -/
def answered (c : Carriage) (s : State) : State :=
  match c.state with
  | .homing => putCarriage { c with state := .parked, distance := some 0, hoist := some 0 } s
  | .traversing => if c.phase = .stopping then putCarriage (c.raise .home) s else putSounding c.enterLowering s
  | .lowering =>
    if c.phase = .stopping then putSounding (Carriage.enterSounding { c with surfaceHoist := c.hoist }) s
    else stopCarriage .noSurface c s
  | .sounding => if c.phase = .stopping then putSounding c.endSounding s else stopCarriage .noBed c s
  | .setting => takePointSet (putCarriage { c with state := .waitingMeter } s)
  | .raising =>
    match c.onward with
    | some (.distance d) => putCarriage (c.traverse d) s
    | some .home | none => putCarriage (Carriage.callMove (.traverseTo 0) { c with state := .returning }) s
  | .returning =>
    takeParked (putCarriage { c with state := .parked, distance := some 0, hoist := some 0, onward := none } s)
  | .unhomed | .parked | .waitingMeter | .stopped => putCarriage c s

/-- R126: a good ARRIVED. -/
def arrivedComes (s : State) : State :=
  match s.carriage.outstanding with
  | [] => discardMessage .strayAnswer s
  | o :: rest =>
    let c := { s.carriage with outstanding := rest }
    if s.carriage.awaited = some o then answered { c with awaited := none, moveLeft := none } s
    else { s with carriage := c }

/-- R139: a good WINCH_FAULT. -/
def winchFaults (cause : Byte) (s : State) : State :=
  stopCarriage .winchFault { s.carriage with faultCode := some cause, outstanding := [] } s

/-- R124, R126, R127, R139: a good message is acted on. -/
def reportComes (r : WinchReport) (s : State) : State :=
  match r with
  | .position d h => positionComes d.toNat h.toNat s
  | .arrived => arrivedComes s
  | .fault cause => winchFaults cause s

/-- R124: a message has ended and is checked: one that fails is discarded, and a good one is acted on by its own
characters. -/
def messageComes (m : WinchMessage) (s : State) : State :=
  match linkErrorOf m, reportOf m.chars with
  | some e, _ => discardMessage e s
  | none, some r => reportComes r s
  | none, none => s

/-- R124: the receiver when the assembler has taken a character more. -/
def Receiver.took (c : RxChar) (r : Receiver) : Receiver := { r with taken := r.taken ++ [c] }

/-- R124: the assembler takes a character. The message under assembly ends when its full length has been taken. -/
def takeChar (s : State) (c : RxChar) : State :=
  if (s.carriage.rx.took c).messageWhole then
    messageComes ((s.carriage.rx.took c).message false) (withWrx (s.carriage.rx.took c).messageEnded s)
  else withWrx (s.carriage.rx.took c) s

/-- R26, R123: the assembler takes the character held. -/
def takeHeld (s : State) : State :=
  match s.carriage.rx.holding with
  | none => s
  | some c => takeChar (withWrx { s.carriage.rx with holding := none } s) c

/-- R124: a gap ends the message under assembly. -/
def gapEnds (s : State) : State :=
  if s.carriage.rx.taken.isEmpty then s
  else messageComes (s.carriage.rx.message true) (withWrx s.carriage.rx.messageEnded s)

/-- Whether the characters that the assembler has are the first of a message command's (notes/assumptions/16.md). -/
def Receiver.begins (chars : List Byte) (r : Receiver) : Bool := (r.assembled.map (·.data)).isPrefixOf chars

/-- The characters of a message command that the assembler still lacks: those behind the ones it has, when these begin the
command's message, and else all of them (notes/assumptions/16.md). -/
def Receiver.lacks (chars : List Byte) (r : Receiver) : List Byte :=
  if r.begins chars then chars.drop r.assembled.length else chars

/-- R124: a character is lost during the message under assembly. -/
def noteLoss (lost : Bool) (s : State) : State :=
  withWrx { s.carriage.rx with overrun := s.carriage.rx.overrun || lost } s

/-- A message command: the assembler takes the character held and then those it lacks, and a gap ends what it then has. A
loss is noted against the command's own message (notes/assumptions/16.md). -/
def winchSends (m : WinchMessage) (s : State) : State :=
  let r := s.carriage.rx
  let t := if r.begins m.chars then takeHeld (noteLoss m.overrun s) else noteLoss m.overrun (takeHeld s)
  let u := ((r.lacks m.chars).map fun b => ⟨b, false, m.framing⟩).foldl takeChar t
  if m.gap then gapEnds u else u

/-- R189: the message of a report, with nothing amiss. -/
def WinchReport.message (r : WinchReport) : WinchMessage := ⟨r.chars, false, false, false⟩

/-- R126: two seconds without a character: in STOPPED the outstanding list is emptied. -/
def Carriage.quiet (c : Carriage) : Carriage := if c.state = .stopped then { c with outstanding := [] } else c

/-- R26, R123: a completed character of WRX goes to the holding buffer; `heldTaken` says whether the assembler had by then
taken the one held, which may have ended a message. Otherwise the newer is lost and the overrun noted, also when the one held
has yet to begin its message (DESIGN CHOICE, notes/assumptions/57.md). -/
def wrxDelivers (c : RxChar) (heldTaken : Bool) (s : State) : State :=
  let t := if heldTaken then takeHeld s else s
  match t.carriage.rx.holding with
  | none => withWrx { t.carriage.rx with holding := some c } t
  | some _ => withWrx { t.carriage.rx with overrun := true } t

/-- R25, R123: the WRX receiver completes a character, or finds a false start. -/
def wrxCompletes (samples : List Bool) (heldTaken : Bool) (s : State) : State :=
  match wrxChar (s.carriage.rx.run samples) with
  | none => withWrx (s.carriage.rx.heard samples) s
  | some c => wrxDelivers c heldTaken (withWrx (s.carriage.rx.completedAt samples c) s)

/-! ## The move timer (R129) -/

/-- R129: whether the awaited command is a HALT. -/
def Carriage.awaitsHalt (c : Carriage) : Bool := c.awaited.any fun o => o.command == .halt

/-- R129: the move timer expires. -/
def moveTimesOut (s : State) : State :=
  if s.carriage.moveLeft.isSome then
    stopCarriage .timeout (if s.carriage.awaitsHalt then s.carriage else s.carriage.hand .halt) s
  else s

/-! ## Verbs -/

/-- R122: CABLEWAY_CONFIG. -/
def cablewayConfig (moveTimeout : Half) (s : State) : State × Answer :=
  let n := clampNat 5 600 moveTimeout.toNat
  ({ s with carriage := { s.carriage with moveTimeout := n } }, ⟨.ok, .moveTimeout n⟩)

/-- R130: the carriage goes to HOMING. -/
def Carriage.enterHoming (c : Carriage) : Carriage :=
  Carriage.callMove .home { c with state := .homing, phase := .none, stopCause := none, faultCode := none }

/-- R130: CABLEWAY_HOME. -/
def cablewayHome (s : State) : State × Answer :=
  match s.carriage.state with
  | .unhomed | .parked => (putCarriage s.carriage.enterHoming s, ⟨.ok, .nil⟩)
  | .stopped =>
    if s.carriage.outstanding.isEmpty then (putCarriage s.carriage.enterHoming s, ⟨.ok, .nil⟩) else refuse .busy .nil s
  | .homing | .traversing | .lowering | .sounding | .setting | .waitingMeter | .raising | .returning =>
    refuse .wrongState .nil s

/-- R138: whether a halt sends HALT: always, but in STOPPED only with no HALT on the outstanding list. -/
def Carriage.sendsHalt (c : Carriage) : Bool :=
  c.state != .stopped || !(c.outstanding.any fun o => o.command == .halt)

/-- R138: CABLEWAY_HALT. -/
def cablewayHalt (s : State) : State × Answer :=
  (stopCarriage .halted (if s.carriage.sendsHalt then s.carriage.hand .halt else s.carriage) s, ⟨.ok, .nil⟩)

/-- R142: CABLEWAY_READ. -/
def cablewayRead (s : State) : State × Answer := (s, ⟨.ok, .carriage s.carriage s.watches.demand⟩)

/-! ## Meanings -/

/-- The meaning of CABLEWAY_CONFIG. -/
def execCablewayConfig (f : FrameLen) (moveTimeout : Half) (s : State) : Host.Outcome State Fault Refusal :=
  transacted (takeVerb f 3 0x50 (cablewayConfig moveTimeout)) s

/-- The meaning of CABLEWAY_HOME. -/
def execCablewayHome (f : FrameLen) (s : State) : Host.Outcome State Fault Refusal :=
  transacted (takeVerb f 1 0x51 cablewayHome) s

/-- The meaning of CABLEWAY_HALT. -/
def execCablewayHalt (f : FrameLen) (s : State) : Host.Outcome State Fault Refusal :=
  transacted (takeVerb f 1 0x52 cablewayHalt) s

/-- The meaning of CABLEWAY_READ. -/
def execCablewayRead (f : FrameLen) (s : State) : Host.Outcome State Fault Refusal :=
  transacted (takeVerb f 1 0x53 cablewayRead) s

/-- The meaning of HOLD_ASSERTION. -/
def execHoldAssertion (s : State) : Host.Outcome State Fault Refusal := live holdAsserts s

/-- The meaning of HOLD_RELEASE. -/
def execHoldRelease (s : State) : Host.Outcome State Fault Refusal := live holdReleases s

/-- The meaning of SURFACE_CONTACT_ASSERTION. -/
def execSurfaceContactAssertion (s : State) : Host.Outcome State Fault Refusal :=
  live (fun s => putCarriage s.carriage.touchSurface s) s

/-- The meaning of BED_CONTACT_ASSERTION. -/
def execBedContactAssertion (s : State) : Host.Outcome State Fault Refusal := live touchBed s

/-- The meaning of CONTACT_RELEASE. -/
def execContactRelease (x : Contact) (s : State) : Host.Outcome State Fault Refusal :=
  live (fun s => { s with carriage := s.carriage.release x }) s

/-- The meaning of POSITION. -/
def execPosition (distance : BitVec 24) (hoist : Half) (s : State) : Host.Outcome State Fault Refusal :=
  live (winchSends (WinchReport.position distance hoist).message) s

/-- The meaning of ARRIVED. -/
def execArrived (s : State) : Host.Outcome State Fault Refusal := live (winchSends WinchReport.arrived.message) s

/-- The meaning of WINCH_FAULT. -/
def execWinchFault (cause : Byte) (s : State) : Host.Outcome State Fault Refusal :=
  live (winchSends (WinchReport.fault cause).message) s

/-- The meaning of WINCH_LINK_ERROR. -/
def execWinchLinkError (m : WinchMessage) (s : State) : Host.Outcome State Fault Refusal := live (winchSends m) s

/-- The meaning of COMMAND_SENT. -/
def execCommandSent (s : State) : Host.Outcome State Fault Refusal :=
  live (fun s => { s with carriage := s.carriage.sent }) s

/-- The meaning of MOVE_TIMER_EXPIRY. -/
def execMoveTimerExpiry (s : State) : Host.Outcome State Fault Refusal := live moveTimesOut s

/-- The meaning of LINK_QUIET_DRAIN. -/
def execLinkQuietDrain (s : State) : Host.Outcome State Fault Refusal :=
  live (fun s => { s with carriage := s.carriage.quiet }) s

/-- R25, R26, R123: a receiver of the part completes a character. -/
def characterCompletes (line : SerialLine) (samples : List Bool) (heldTaken : Bool) (s : State) : State :=
  match line with
  | .sbus => sbusCompletes samples heldTaken s
  | .wrx => wrxCompletes samples heldTaken s

/-- The meaning of CHARACTER_COMPLETION. -/
def execCharacterCompletion (line : SerialLine) (samples : List Bool) (heldTaken : Bool) (s : State) :
    Host.Outcome State Fault Refusal :=
  live (characterCompletes line samples heldTaken) s

end Sys2Proof.Machine
end

