-- ==== Sys2Proof/Machine/Frames.lean ====
section
/-! DEFINITION. The response frames in bytes (R186): the encoding of each kind of field, and the fields of each response in
the order in which its rule lists them. An enumerated value is sent as its position in the list that defines it, which is
its constructor's place. Where the rules leave a layout open, notes/assumptions/17.md to 23.md, 46.md to 51.md and 53.md to 59.md
say what is sent. -/

namespace Sys2Proof.Machine

/-! ## Fields (R186) -/

/-- A one-byte field. -/
def u1 (n : Nat) : List Byte := leBytes 1 n

/-- A two-byte unsigned field. -/
def u2 (n : Nat) : List Byte := leBytes 2 n

/-- A four-byte unsigned field. -/
def u4 (n : Nat) : List Byte := leBytes 4 n

/-- An eight-byte unsigned field. -/
def u8 (n : Nat) : List Byte := leBytes 8 n

/-- A two-byte signed field, in two's complement. -/
def i2 (v : Int) : List Byte := leBytes 2 (BitVec.ofInt 16 v).toNat

/-- A four-byte signed field. -/
def i4 (v : Int) : List Byte := leBytes 4 (BitVec.ofInt 32 v).toNat

/-- An eight-byte signed field. -/
def i8 (v : Int) : List Byte := leBytes 8 (BitVec.ofInt 64 v).toNat

/-- R186: a set or clear, true or false field: 1 for set or true (DESIGN CHOICE, notes/assumptions/59.md). -/
def flag (b : Bool) : List Byte := if b then [1] else [0]

/-- An optional field: its presence byte and its value, which `enc` lays out, sent as zeros when absent; `sample` is any
value, which gives the width. -/
def opt {α : Type} (enc : α → List Byte) (sample : α) : Option α → List Byte
  | some v => 1 :: enc v
  | none => 0 :: List.replicate (enc sample).length 0

/-- A list: a count byte, then its entries. -/
def counted {α : Type} (enc : α → List Byte) (l : List α) : List Byte := u1 l.length ++ l.flatMap enc

/-! ## Records -/

/-- R186: a port number. -/
def portByte (p : Fin 4) : List Byte := u1 p.val

/-- R23: the bit rate of a divisor: the reference divided by 16 × (divisor + 1), where that is not whole rounded up or down
as a free value says (notes/assumptions/5.md). -/
def bitRate (divisor : Nat) : Nat :=
  let d := 16 * (divisor + 1)
  3686400 / d + if 3686400 % d ≠ 0 ∧ Config.bitRateRoundsUp divisor = true then 1 else 0

/-- R1: an identity. -/
def Identity.bytes (x : Identity) : List Byte := [x.kindCode, x.firmware] ++ u4 x.serial.toNat

/-- R21: the time left on a power-good wait, if one runs. -/
def PortTimer.waitLeft : PortTimer → Option Nat
  | .powerGoodWait n => some n
  | .fixedDelay _ | .holdOff _ => none

/-- R21: the time left on a fixed delay, if one runs. -/
def PortTimer.delayLeft : PortTimer → Option Nat
  | .fixedDelay n => some n
  | .powerGoodWait _ | .holdOff _ => none

/-- R21: the time left on a hold-off, if one runs. -/
def PortTimer.holdOffLeft : PortTimer → Option Nat
  | .holdOff n => some n
  | .powerGoodWait _ | .fixedDelay _ => none

/-- R1, R21: a port record with its queue position, the power queue and the port's timers. -/
def Port.bytes (position : Option Nat) (queue : List (Fin 4)) (r : Port) : List Byte :=
  u1 r.state.ctorIdx ++ flag r.enabled ++ u1 r.kind.ctorIdx ++ u1 r.address ++ i4 r.datum ++ u1 r.cls ++
  u1 r.pgMode.ctorIdx ++ u1 r.missLimit ++ u1 r.missCount ++ flag r.silent ++
  opt (fun c => u1 (FaultCause.ctorIdx c)) .powerFault r.faultCause ++ flag r.present ++ flag r.latchClosed ++
  flag r.removedNotPulled ++ opt Identity.bytes ⟨0, 0, 0⟩ r.identity ++ u1 r.attempts ++ opt u1 0 position ++
  counted portByte queue ++ opt u4 0 (r.timer.bind PortTimer.waitLeft) ++
  opt u4 0 (r.timer.bind PortTimer.delayLeft) ++ opt u4 0 (r.timer.bind PortTimer.holdOffLeft)

/-- R186: a line user: its kind and its port. -/
def LineUser.bytes : LineUser → List Byte
  | .round => [1, 0]
  | .ident p => 2 :: portByte p
  | .zero p => 3 :: portByte p

/-- R186: what holds the line. -/
def Holder.bytes : Holder → List Byte
  | .free => [0, 0]
  | .user u => u.bytes
  | .brk => [4, 0]
  | .recovery => [5, 0]

/-- R30: a reading. -/
def readingBytes (x : Int × HeadStatus) : List Byte := i4 x.1 ++ u1 x.2.ctorIdx

/-- R30: a reply status. -/
def ReplyStatus.bytes (x : ReplyStatus) : List Byte :=
  u1 x.lastPoll.ctorIdx ++ opt (fun c => u1 (GarbleCause.ctorIdx c)) .overlong x.garble ++
  opt readingBytes (0, .ok) x.lastReading ++ opt u4 0 x.lastGood ++ u1 x.zero.ctorIdx

/-- R23: the fields of a BUS_CONFIG response; the four bytes of the bit rate are the model's choice
(notes/assumptions/5.md). -/
def Bus.bytes (b : Bus) : List Byte :=
  u2 b.divisor ++ u4 (bitRate b.divisor) ++ opt u2 0 b.pendingDivisor ++ u2 b.period ++
  u4 (b.cycleLeft.getD 0) ++ b.holder.bytes ++ counted LineUser.bytes b.queue ++ b.status.toList.flatMap ReplyStatus.bytes

/-- R40: a source, P0 to P3 or OBSERVER. -/
def Source.bytes (x : Source) : List Byte := u1 x.index.val

/-- R40, R54: a source or none, which is the last of the list. -/
def sourceBytes (x : Option Source) : List Byte :=
  match x with
  | some y => y.bytes
  | none => u1 5

/-- R43: an observer entry, as it stands in the OBSERVER_ENTRY response and, behind a presence byte, in STAGE_READ's (DESIGN
CHOICE, notes/assumptions/56.md). -/
def ObserverEntry.bytes (e : ObserverEntry) : List Byte := i2 e.stage ++ u4 e.time

/-- R54: a stage sample. -/
def StageSample.bytes (x : StageSample) : List Byte :=
  u4 x.time ++ opt i2 0 x.stage ++ u1 x.quality.ctorIdx ++ sourceBytes x.source ++ opt i4 0 x.rise ++
  flag x.disagree ++ flag x.sourceChanged

/-- A stage sample of zeros, which gives the width of an absent one. -/
def StageSample.blank : StageSample where
  time := 0
  stage := none
  quality := .good
  source := none
  rise := none
  disagree := false
  sourceChanged := false

/-- R42: a disposition with its converted stage. -/
def Disposition.bytes : Disposition → List Byte
  | .notRead => u1 0 ++ opt i4 0 none
  | .silent => u1 1 ++ opt i4 0 none
  | .missed => u1 2 ++ opt i4 0 none
  | .failed => u1 3 ++ opt i4 0 none
  | .outOfRange h => u1 4 ++ opt i4 0 (some h)
  | .candidate h => u1 5 ++ opt i4 0 (some h)

/-- R51: the candidate compared with and its stage. -/
def comparedBytes (x : Source × Int) : List Byte := x.1.bytes ++ i2 x.2

/-- R58: the fields of a STAGE_READ response. -/
def Selector.bytes (fresh : Bool) (r : Selector) : List Byte :=
  u1 r.observerClass ++ u1 r.returnDelay ++ u2 r.disagreementLimit ++ u1 r.holdLimit ++ u1 r.filterShift ++
  opt ObserverEntry.bytes ⟨0, 0⟩ r.observerEntry ++ flag fresh ++ sourceBytes r.source ++
  opt Source.bytes .observer r.lastSource ++ r.leads.toList.flatMap u1 ++ flag r.reselect ++ opt u4 0 r.anchor ++
  opt i2 0 r.heldStage ++ flag r.primed ++ i4 r.rise ++ opt i2 0 r.hPrev ++ opt u4 0 r.tPrev ++
  opt StageSample.bytes .blank r.lastSample ++ r.dispositions.toList.flatMap Disposition.bytes ++
  opt comparedBytes (.observer, 0) r.comparedWith ++ r.ranks.toList.flatMap u1

/-- R60, R75: the store fields. -/
def storeBytes (nextGeneration : Nat) (inForce : Option (Fin 3)) : List Byte :=
  u2 nextGeneration ++ opt (fun k => u1 (Fin.val k)) (0 : Fin 3) inForce

/-- R65: a check detail. -/
def checkBytes (x : CheckCause × Nat) : List Byte := u1 x.1.ctorIdx ++ u1 x.2

/-- R60: a point. -/
def Point.bytes (x : Point) : List Byte := i2 x.stage ++ u4 x.discharge

/-- The entries of a list from an index, at most `n` of them, each behind its index. -/
def indexed {α : Type} (enc : α → List Byte) (first n : Nat) (l : List α) : List Byte :=
  ((l.zipIdx.drop first).take n).flatMap fun x => u1 x.2 ++ enc x.1

/-- R75, R76: a slot as RATING_READ gives it, with up to eight points from an index. -/
def RatingSlot.bytes (first : Nat) (r : RatingSlot) : List Byte :=
  u1 r.state.ctorIdx ++ opt u2 0 r.generation ++ u4 r.effective ++ u2 r.allowance ++ u1 r.points.length ++
  u1 r.shifts.length ++ opt checkBytes (.tooFewPoints, 0) r.checkDetail ++ opt u4 0 r.inForceSince ++
  opt u4 0 r.supersededAt ++ indexed Point.bytes first 8 r.points

/-- R79: a shift record. -/
def Shift.bytes (x : Shift) : List Byte := u4 x.time ++ i2 x.shift

/-- R93: a flow sample. -/
def FlowSample.bytes (x : FlowSample) : List Byte :=
  x.sample.bytes ++ opt u4 0 x.discharge ++ opt i2 0 x.effShift ++ opt (fun k => u1 (Fin.val k)) (0 : Fin 3) x.slot ++
  opt u2 0 x.generation ++ flag x.below ++ flag x.extrapolated ++ flag x.clamped ++ flag x.noRating

/-- A flow sample of zeros, which gives the width of an absent one. -/
def FlowSample.blank : FlowSample := flowWithout .blank none none false

/-- R100, R186: a watch operand, in the width of the field its subject names: a stage in 2 bytes, a discharge or a rise
rate in 4. -/
def Subject.operandBytes (x : Subject) (v : Int) : List Byte :=
  match x with
  | .stage => i2 v
  | .discharge | .rise => i4 v

/-- R99: a watch record. -/
def Watch.bytes (w : Watch) : List Byte :=
  u1 w.subject.ctorIdx ++ u1 w.direction.ctorIdx ++ i4 w.threshold ++ i4 w.release ++ u1 w.raise ++ u1 w.clear ++
  u1 w.level ++ [w.lines] ++ flag w.withdraw ++ u1 w.onLoss.ctorIdx ++ u1 w.state.ctorIdx ++ u1 w.count ++
  flag w.acked ++ opt w.subject.operandBytes 0 w.lastOperand ++ u1 w.lastClass.ctorIdx ++ opt u4 0 w.raisedSince

/-- R113: the summary. -/
def WatchSummary.bytes (x : WatchSummary) : List Byte :=
  leBytes 3 x.installed.toNat ++ leBytes 3 x.raised.toNat ++ leBytes 3 x.unacknowledged.toNat ++ u1 x.level ++
  [x.lines] ++ [x.silenceable] ++ flag x.demand

/-- A winch command in a response: a free value of its type and the distance or hoist depth it carries. -/
def WinchCommand.bytes : WinchCommand → List Byte
  | .traverseTo d => Config.winchCommandField 0x31 d
  | .hoistTo h => Config.winchCommandField 0x32 h
  | .halt => Config.winchCommandField 0x33 0
  | .home => Config.winchCommandField 0x34 0

/-- R120: what follows RAISING: a free value. -/
def Onward.bytes : Onward → List Byte
  | .distance d => Config.onwardField (some d)
  | .home => Config.onwardField none

/-- R120: the target: a free value. -/
def Target.bytes : Target → List Byte
  | .distance d => Config.targetField false d
  | .hoist h => Config.targetField true h

/-- R142: the fields of a CABLEWAY_READ response. The code of the phase is its place with R120's repeats dropped, and an asserted
level is sent as 1 (DESIGN CHOICE, notes/assumptions/47.md and 48.md). -/
def Carriage.bytes (demand : Bool) (c : Carriage) : List Byte :=
  u1 c.state.ctorIdx ++ u1 c.phase.ctorIdx ++ opt Onward.bytes .home c.onward ++ opt Target.bytes (.distance 0) c.target ++
  opt WinchCommand.bytes .halt c.pendingMove ++ opt (fun o => (Order.command o).bytes) ⟨0, .halt⟩ c.awaited ++
  counted (fun o => (Order.command o).bytes) c.outstanding ++ flag c.moveLeft.isSome ++ opt u4 0 c.distance ++
  opt u2 0 c.hoist ++ opt u2 0 c.surfaceHoist ++ opt u2 0 c.bedHoist ++ opt u2 0 c.soundedDepth ++
  opt (fun x => u1 (StopCause.ctorIdx x)) .timeout c.stopCause ++ opt (fun b => [b]) (0 : Byte) c.faultCode ++
  opt (fun x => u1 (LinkError.ctorIdx x)) .framing c.linkError ++ flag c.hold ++ flag c.surfaceContact ++
  flag c.bedContact ++ u2 c.moveTimeout ++ flag demand ++ opt u4 0 c.moveLeft

/-- R143: a meter rating. -/
def MeterRating.bytes (r : MeterRating) : List Byte :=
  u1 r.p ++ u1 r.a1 ++ u2 r.b1 ++ u4 r.nb ++ u1 r.a2 ++ u2 r.b2

/-- R150: a point result; its count is a free value in bytes. Its segment is sent as an optional byte of value 1 or 2
(DESIGN CHOICE, notes/assumptions/50.md). -/
def PointResult.bytes (x : PointResult) : List Byte :=
  Config.wideCountField x.count ++ u1 x.taken ++ u4 x.rate ++ opt u1 0 x.segment ++ u2 x.velocity ++ flag x.still ++
  flag x.countSaturated ++ flag x.velocityLimited

/-- A point result of zeros, which gives the width of an absent one. -/
def PointResult.blank : PointResult := ⟨0, 0, 0, none, 0, false, false, false⟩

/-- R143, R145: the counter record. For EXPOSING the time left and the count that R145 names stand once, at their places in
the record (DESIGN CHOICE, notes/assumptions/49.md). A stopped exposure timer is sent as an absent optional field (DESIGN
CHOICE, notes/assumptions/55.md). -/
def Meter.bytes (m : Meter) : List Byte :=
  opt MeterRating.bytes ⟨0, 0, 0, 0, 0, 0⟩ m.rating ++ u1 m.exposureTime ++ flag m.exposing ++ opt u1 0 m.taken ++
  Config.wideCountField m.count ++ flag m.saturated ++ opt u4 0 m.exposureLeft ++ u1 m.lastOutcome.ctorIdx ++
  opt PointResult.bytes .blank m.lastResult ++ flag m.inputHigh ++ Config.wideCountField m.pulses

/-- R153: the latest stage of a gauging. -/
def latestBytes (x : Option Int × Quality) : List Byte := opt i2 0 x.1 ++ u1 x.2.ctorIdx

/-- R153: the results of a gauging. -/
def GaugingResults.bytes (r : GaugingResults) : List Byte :=
  opt u4 0 r.measured ++ opt i2 0 r.meanHeight ++ opt u4 0 r.rated ++ opt i8 0 r.deviation ++ opt i4 0 r.indicated ++
  opt (fun k => u1 (Fin.val k)) (0 : Fin 3) r.slot ++ opt u2 0 r.generation

/-- R153: the flags of a gauging. -/
def GaugingFlags.bytes (f : GaugingFlags) : List Byte :=
  flag f.unsteady ++ flag f.withdrawn ++ flag f.sourceChanged ++ flag f.winchFault ++ flag f.extrapolated

/-- R153: the header of a gauging. The vertical list stands in it as one byte, the number of verticals held (DESIGN CHOICE,
notes/assumptions/51.md). -/
def Gauging.bytes (g : Gauging) : List Byte :=
  u1 g.state.ctorIdx ++ u1 g.direction.ctorIdx ++ u1 g.method.ctorIdx ++ u2 g.offset ++ u2 g.unsteadyLimit ++
  u1 g.verticals.length ++ opt u1 0 g.current ++ opt u1 0 g.point ++ u1 g.step.ctorIdx ++ opt u4 0 g.startTime ++
  opt u4 0 g.endTime ++ opt i2 0 g.stageAtStart ++ opt latestBytes (none, .good) g.latest ++ i4 g.stageSum ++
  u1 g.stageCount ++ opt (fun q => u1 (Quality.ctorIdx q)) .good g.worst ++ g.flags.bytes ++
  opt (fun x => u1 (SuspendCause.ctorIdx x)) .withdraw g.suspendCause ++
  opt (fun x => u1 (StopCause.ctorIdx x)) .timeout g.stopCause ++ g.results.bytes ++ flag g.adopted ++
  opt Shift.bytes ⟨0, 0⟩ g.adoptedShift

/-- R154: a vertical record. -/
def Vertical.bytes (v : Vertical) : List Byte :=
  u4 v.distance ++ u1 v.method.ctorIdx ++ flag v.edge ++ u2 v.edgeFactor ++ opt u2 0 v.plannedDepth ++
  u2 v.surfaceCoeff ++ u1 v.status.ctorIdx ++ opt u2 0 v.depth ++ counted (fun x => u2 x.1 ++ u2 x.2) v.points ++
  opt u2 0 v.mean ++ u4 v.span ++ opt u8 0 v.flow ++ flag v.nearBed ++ flag v.downgraded ++ flag v.still ++
  flag v.saturated

/-! ## Responses -/

/-- R186: the fields of a response, in the order in which its rule lists them. RATING_FINISH's check detail and generation
have no presence byte (DESIGN CHOICE, notes/assumptions/53.md), and OBSERVER_ENTRY's entry has none (DESIGN CHOICE,
notes/assumptions/56.md); SHIFT_READ's number of records stands once, as the count of its list (DESIGN CHOICE,
notes/assumptions/54.md); the header of GAUGING_PLAN and GAUGING_START is every header field of R153 (DESIGN CHOICE,
notes/assumptions/58.md). -/
def Body.bytes : Body → List Byte
  | .nil => []
  | .frameFault k => u1 k.ctorIdx
  | .timeSet asSet before unset => u4 asSet ++ u4 before ++ flag unset
  | .time now unset => u4 now ++ flag unset
  | .attention set => leBytes 5 set.toNat
  | .port r position queue => r.bytes position queue
  | .bus b => b.bytes
  | .policy c d g h k => u1 c ++ u1 d ++ u2 g ++ u1 h ++ u1 k
  | .observer e fresh => e.bytes ++ flag fresh
  | .selector r fresh => r.bytes fresh
  | .rating n k r first => storeBytes n k ++ r.bytes first
  | .ratingEmpty n k st => u1 st.ctorIdx ++ storeBytes n k
  | .pointFailed i test => u1 i ++ u1 test.ctorIdx
  | .pointsFull held room => u1 held ++ u1 room
  | .pointsTaken held h room => u1 held ++ i2 h ++ u1 room
  | .checkDetail cause i => checkBytes (cause, i)
  | .sealed k g t n => u1 k.val ++ u2 g ++ u4 t ++ u1 n
  | .slotState st => u1 st.ctorIdx
  | .shiftWritten how i n => u1 how.ctorIdx ++ u1 i ++ u1 n
  | .shiftsHeld n => u1 n
  | .shifts st g l v => u1 st.ctorIdx ++ opt u2 0 g ++ counted Shift.bytes l ++ i2 v
  | .flow x => opt FlowSample.bytes .blank x
  | .watch w x => w.bytes ++ x.bytes
  | .watchSummary x => x.bytes
  | .lineConfig silenceable lines x => [silenceable, lines] ++ x.bytes
  | .moveTimeout n => u2 n
  | .carriage c demand => c.bytes demand
  | .meter m failing => m.bytes ++ (failing.toList.flatMap fun x => u1 (MeterField.ctorIdx x))
  | .gaugingHeader g => g.bytes
  | .verticalsTaken held room => u1 held ++ u1 room
  | .verticalFailed i => u1 i
  | .gauging g first => g.bytes ++ indexed Vertical.bytes first 4 g.verticals

/-- R186: the bytes that follow the length byte of a response. -/
def Response.content (r : Response) : List Byte := u1 r.code.ctorIdx ++ [r.verb] ++ r.body.bytes

/-- R186: the length byte: one of more than 255 bytes has no length byte, and a free value stands for it
(notes/assumptions/4.md). -/
def lengthByte (n : Nat) : Byte := if n ≤ 255 then BitVec.ofNat 8 n else Config.overlongLength n

/-- R186: a response frame. -/
def Response.frame (r : Response) : List Byte := lengthByte r.content.length :: r.content

end Sys2Proof.Machine
end

