-- ==== Sys2Proof/Machine/CommandPort.lean ====
section
/-! DEFINITION. The command port (chapter 10): transactions and the response buffer, the clock, READ_ATTENTION, and the two
resets. -/

namespace Sys2Proof.Machine

/-! ## Resets (R184, R185) -/

/-- R184, R185: every record at its reset value; the model's own queue and draw counter go on. -/
def resetBlocks (s : State) : State := { State.reset with freeDraws := s.freeDraws, pending := s.pending }

/-- R184: whether a transaction is under way, so that an assertion of RST_N abandons it. -/
def CommandPort.underWay (h : CommandPort) : Bool := h.reception != .idle || h.ignoring

/-- R184: RST_N is asserted: the part is held at its reset values, the stage cycle timer not yet started (R39), and a
transaction under way is ignored from then on. -/
def holdInReset (s : State) : State :=
  { resetBlocks s with
    inReset := true, bus := { Bus.reset with cycleLeft := none }
    host := { CommandPort.reset with ignoring := s.host.underWay } }

/-- R184, R39: RST_N is released: the stage cycle timer starts with the period held. -/
def leaveReset (s : State) : State :=
  if s.inReset then
    { s with inReset := false, bus := { s.bus with cycleLeft := some (s.bus.period * 1000) } }
  else s

/-- R185: RESET. -/
def reset (s : State) : State × Answer := (resetBlocks s, ⟨.ok, .nil⟩)

/-! ## The clock (R180, R181) -/

/-- R181: SET_TIME. -/
def setTime (time : Word) (s : State) : State × Answer :=
  ({ s with host := { s.host with time := time.toNat, clockUnset := false } },
    ⟨.ok, .timeSet time.toNat s.host.time s.host.clockUnset⟩)

/-- R181: READ_TIME. -/
def readTime (s : State) : State × Answer := (s, ⟨.ok, .time s.host.time s.host.clockUnset⟩)

/-- R180: station time rises by 1, up to its last value. -/
def timeRises (s : State) : State :=
  { s with host := { s.host with time := saturatingSucc maxStationTime s.host.time } }

/-! ## Attention (R183) -/

/-- R183: READ_ATTENTION. -/
def readAttention (s : State) : State × Answer :=
  ({ s with host := { s.host with attention := 0 } }, ⟨.ok, .attention s.host.attention⟩)

/-! ## Transactions (R176 to R178) -/

/-- R177: a completed frame whose verb byte names no verb; without a verb byte the refusal carries a free value
(notes/assumptions/3.md). -/
def unknownFrame (f : FrameLen) (verb : Option Byte) (s : State) : State :=
  let code := verb.getD (Config.unreceivedVerb s.freeDraws)
  let t := if verb.isNone then { s with freeDraws := s.freeDraws + 1 } else s
  match frameFault f f.declared.toNat with
  | some k => respond f.received ⟨.badField, code, .frameFault k⟩ t
  | none => respond f.received ⟨.unknownVerb, code, .nil⟩ t

/-- R178: the response frame that a read transaction shifts out, an empty frame for an empty buffer. -/
def CommandPort.frame (h : CommandPort) : List Byte :=
  match h.buffer with
  | some r => r.frame
  | none => [0x00]

/-- R176, R178, R186: the bytes of a read transaction in which the host clocks `n` bytes after the one that gives its kind:
filler while that one comes, since no kind is known before it (DEDUCED, notes/assumptions/38.md), those of the frame, then
filler. -/
def shiftedOut (frame : List Byte) (n : Nat) : List Byte := filler 1 ++ frame.take n ++ filler (n - frame.length)

/-- R176: the bits on SDO in the whole bytes of the latest transaction, from the CS_N falling edge on: every byte most
significant bit first. -/
def CommandPort.sdoBits (h : CommandPort) : List Bool := h.sdo.flatMap bitsOf

/-- R178: a read transaction ends; a response shifted out whole leaves the buffer empty. -/
def readEnds (clocked : Nat) (s : State) : State :=
  { s with host := { s.host with
      reception := .idle
      sdo := shiftedOut s.host.frame clocked
      buffer := if s.host.frame.length ≤ clocked then none else s.host.buffer } }

/-- R176: the first whole byte of a transaction gives its kind, and with it, and with each whole byte that has
followed it, a byte of filler or of the response has been shifted out. Without a whole byte the record stays as it was. -/
def CommandPort.begun (first : Option FirstByte) (h : CommandPort) : CommandPort :=
  match first with
  | none => h
  | some x =>
    if x.byte = 0 then { h with reception := .read x.followed, sdo := shiftedOut h.frame x.followed }
    else { h with reception := .command x.byte x.followed, sdo := filler (x.followed + 1) }

/-- R176, R184: a transaction begins, so the one before has ended; while RST_N is asserted it is ignored, and from then on
to its end. -/
def transactionBegins (first : Option FirstByte) (s : State) : State :=
  if s.inReset then { s with host := { s.host with ignoring := first.isSome } }
  else { s with host := { s.host.begun first with ignoring := false } }

/-! ## Meanings -/

/-- The meaning of SET_TIME. -/
def execSetTime (f : FrameLen) (time : Word) (s : State) : Host.Outcome State Fault Refusal :=
  transacted (takeVerb f 5 0x01 (setTime time)) s

/-- The meaning of READ_TIME. -/
def execReadTime (f : FrameLen) (s : State) : Host.Outcome State Fault Refusal := transacted (takeVerb f 1 0x02 readTime) s

/-- The meaning of RESET. -/
def execReset (f : FrameLen) (s : State) : Host.Outcome State Fault Refusal := transacted (takeVerb f 1 0x03 reset) s

/-- The meaning of READ_ATTENTION. -/
def execReadAttention (f : FrameLen) (s : State) : Host.Outcome State Fault Refusal :=
  transacted (takeVerb f 1 0x04 readAttention) s

/-- The meaning of UNKNOWN_VERB. -/
def execUnknownVerb (f : FrameLen) (verb : Option Byte) (s : State) : Host.Outcome State Fault Refusal :=
  transacted (unknownFrame f verb) s

/-- The meaning of READ_TRANSACTION. -/
def execReadTransaction (clocked : Nat) (s : State) : Host.Outcome State Fault Refusal := transacted (readEnds clocked) s

/-- The meaning of POWER_ON_RESET: it is taken whether or not the part is held in reset already. -/
def execPowerOnReset (s : State) : Host.Outcome State Fault Refusal := .next (holdInReset s)

/-- The meaning of RESET_RELEASE: the one command taken while the part is held in reset. -/
def execResetRelease (s : State) : Host.Outcome State Fault Refusal := .next (leaveReset s)

/-- The meaning of STATION_TIME_RISE. -/
def execStationTimeRise (s : State) : Host.Outcome State Fault Refusal := live timeRises s

/-- The meaning of TRANSACTION_BEGIN. -/
def execTransactionBegin (first : Option FirstByte) (s : State) : Host.Outcome State Fault Refusal :=
  .next (transactionBegins first s)

end Sys2Proof.Machine
end

