-- ==== Sys2Proof/Machine/Dispatch.lean ====
section
/-! DEFINITION. The one match from a command to its meaning. -/

namespace Sys2Proof.Machine

def exec (i : Instr) (s : State) : Host.Outcome State Fault Refusal :=
  match i with
  | .setTime f time => Sys2Proof.Machine.execSetTime f time s
  | .readTime f => Sys2Proof.Machine.execReadTime f s
  | .reset f => Sys2Proof.Machine.execReset f s
  | .readAttention f => Sys2Proof.Machine.execReadAttention f s
  | .portConfig f port kind address datum cls mode missLimit => Sys2Proof.Machine.execPortConfig f port kind address datum cls mode missLimit s
  | .portEnable f port => Sys2Proof.Machine.execPortEnable f port s
  | .portDisable f port => Sys2Proof.Machine.execPortDisable f port s
  | .portRead f port => Sys2Proof.Machine.execPortRead f port s
  | .headZero f port => Sys2Proof.Machine.execHeadZero f port s
  | .busConfig f divisor period => Sys2Proof.Machine.execBusConfig f divisor period s
  | .busRestart f => Sys2Proof.Machine.execBusRestart f s
  | .stagePolicy f observerClass returnDelay disagreement holdLimit filterShift => Sys2Proof.Machine.execStagePolicy f observerClass returnDelay disagreement holdLimit filterShift s
  | .stageRead f => Sys2Proof.Machine.execStageRead f s
  | .observerEntry f stage entryTime => Sys2Proof.Machine.execObserverEntry f stage entryTime s
  | .reselect f => Sys2Proof.Machine.execReselect f s
  | .ratingBegin f slot effective allowance => Sys2Proof.Machine.execRatingBegin f slot effective allowance s
  | .ratingPoints f slot points => Sys2Proof.Machine.execRatingPoints f slot points s
  | .ratingFinish f slot => Sys2Proof.Machine.execRatingFinish f slot s
  | .ratingRead f slot firstPoint => Sys2Proof.Machine.execRatingRead f slot firstPoint s
  | .ratingRetire f slot => Sys2Proof.Machine.execRatingRetire f slot s
  | .shiftPut f slot time shift => Sys2Proof.Machine.execShiftPut f slot time shift s
  | .shiftRemove f slot time => Sys2Proof.Machine.execShiftRemove f slot time s
  | .shiftRead f slot => Sys2Proof.Machine.execShiftRead f slot s
  | .flowRead f => Sys2Proof.Machine.execFlowRead f s
  | .watchPut f key subject direction threshold release raise clear level lines withdraw onLoss => Sys2Proof.Machine.execWatchPut f key subject direction threshold release raise clear level lines withdraw onLoss s
  | .watchRead f key => Sys2Proof.Machine.execWatchRead f key s
  | .watchAck f key => Sys2Proof.Machine.execWatchAck f key s
  | .watchRemove f key => Sys2Proof.Machine.execWatchRemove f key s
  | .lineConfig f silenceable => Sys2Proof.Machine.execLineConfig f silenceable s
  | .cablewayConfig f moveTimeout => Sys2Proof.Machine.execCablewayConfig f moveTimeout s
  | .cablewayHome f => Sys2Proof.Machine.execCablewayHome f s
  | .cablewayHalt f => Sys2Proof.Machine.execCablewayHalt f s
  | .cablewayRead f => Sys2Proof.Machine.execCablewayRead f s
  | .meterConfig f exposure p a1 b1 nb a2 b2 => Sys2Proof.Machine.execMeterConfig f exposure p a1 b1 nb a2 b2 s
  | .gaugingPlan f slot direction method offset unsteady => Sys2Proof.Machine.execGaugingPlan f slot direction method offset unsteady s
  | .gaugingVerticals f slot verticals => Sys2Proof.Machine.execGaugingVerticals f slot verticals s
  | .gaugingStart f slot => Sys2Proof.Machine.execGaugingStart f slot s
  | .gaugingResume f slot => Sys2Proof.Machine.execGaugingResume f slot s
  | .gaugingAbort f slot => Sys2Proof.Machine.execGaugingAbort f slot s
  | .gaugingRead f slot firstVertical => Sys2Proof.Machine.execGaugingRead f slot firstVertical s
  | .gaugingAdopt f slot shift => Sys2Proof.Machine.execGaugingAdopt f slot shift s
  | .gaugingRetire f slot => Sys2Proof.Machine.execGaugingRetire f slot s
  | .unknownVerb f verb => Sys2Proof.Machine.execUnknownVerb f verb s
  | .readTransaction clocked => Sys2Proof.Machine.execReadTransaction clocked s
  | .powerOnReset => Sys2Proof.Machine.execPowerOnReset s
  | .resetRelease => Sys2Proof.Machine.execResetRelease s
  | .presenceArrival p => Sys2Proof.Machine.execPresenceArrival p s
  | .presenceLoss p => Sys2Proof.Machine.execPresenceLoss p s
  | .latchClosing p => Sys2Proof.Machine.execLatchClosing p s
  | .latchOpening p => Sys2Proof.Machine.execLatchOpening p s
  | .buttonPress p => Sys2Proof.Machine.execButtonPress p s
  | .statusAssertion p => Sys2Proof.Machine.execStatusAssertion p s
  | .statusRelease p => Sys2Proof.Machine.execStatusRelease p s
  | .powerGood p => Sys2Proof.Machine.execPowerGood p s
  | .pgTimeout p => Sys2Proof.Machine.execPgTimeout p s
  | .fixedDelayEnd p => Sys2Proof.Machine.execFixedDelayEnd p s
  | .holdOffExpiry p => Sys2Proof.Machine.execHoldOffExpiry p s
  | .lampBlink p => Sys2Proof.Machine.execLampBlink p s
  | .powerSequencerTake => Sys2Proof.Machine.execPowerSequencerTake s
  | .stageCycleExpiry => Sys2Proof.Machine.execStageCycleExpiry s
  | .lineGrant => Sys2Proof.Machine.execLineGrant s
  | .pendingDivisorApply => Sys2Proof.Machine.execPendingDivisorApply s
  | .masterFrameBegin => Sys2Proof.Machine.execMasterFrameBegin s
  | .masterFrameEnd => Sys2Proof.Machine.execMasterFrameEnd s
  | .replyWindowClose => Sys2Proof.Machine.execReplyWindowClose s
  | .replyIdleEnd => Sys2Proof.Machine.execReplyIdleEnd s
  | .replyLimit => Sys2Proof.Machine.execReplyLimit s
  | .lineIdleRelease => Sys2Proof.Machine.execLineIdleRelease s
  | .stray => Sys2Proof.Machine.execStray s
  | .breakEnd => Sys2Proof.Machine.execBreakEnd s
  | .recoveryEnd => Sys2Proof.Machine.execRecoveryEnd s
  | .holdAssertion => Sys2Proof.Machine.execHoldAssertion s
  | .holdRelease => Sys2Proof.Machine.execHoldRelease s
  | .surfaceContactAssertion => Sys2Proof.Machine.execSurfaceContactAssertion s
  | .bedContactAssertion => Sys2Proof.Machine.execBedContactAssertion s
  | .contactRelease c => Sys2Proof.Machine.execContactRelease c s
  | .position distance hoist => Sys2Proof.Machine.execPosition distance hoist s
  | .arrived => Sys2Proof.Machine.execArrived s
  | .winchFault cause => Sys2Proof.Machine.execWinchFault cause s
  | .winchLinkError m => Sys2Proof.Machine.execWinchLinkError m s
  | .commandSent => Sys2Proof.Machine.execCommandSent s
  | .moveTimerExpiry => Sys2Proof.Machine.execMoveTimerExpiry s
  | .linkQuietDrain => Sys2Proof.Machine.execLinkQuietDrain s
  | .countEvent => Sys2Proof.Machine.execCountEvent s
  | .meterInputFall => Sys2Proof.Machine.execMeterInputFall s
  | .exposureExpiry => Sys2Proof.Machine.execExposureExpiry s
  | .stationTimeRise => Sys2Proof.Machine.execStationTimeRise s
  | .startBitAccepted => Sys2Proof.Machine.execStartBitAccepted s
  | .characterCompletion line samples heldTaken => Sys2Proof.Machine.execCharacterCompletion line samples heldTaken s
  | .transactionBegin first => Sys2Proof.Machine.execTransactionBegin first s

end Sys2Proof.Machine
end

