-- ==== Sys2Proof/Safety.lean ====
section
/-! DEFINITION. What counts as a safe run: the laws that the manual states of the records and that every step must keep. -/

namespace Sys2Proof.Machine

/-! ## Attention (R182, R186) -/

/-- R182, R186: the attention summary holds only its 38 members, so bits 38 and 39 are 0. -/
def AttentionLaw (s : State) : Prop := s.host.attention.getLsbD 38 = false ∧ s.host.attention.getLsbD 39 = false

/-! ## Ports (R5, R7, R17) -/

/-- R7: the power queue holds the WAITING ports, each once; at most one port is POWERING; and none waits while no port is
POWERING. -/
structure PowerLaw (s : State) : Prop where
  once : s.powerQueue.Nodup
  waiting : ∀ p : Fin 4, p ∈ s.powerQueue ↔ (s.ports.get p).state = .waiting
  single : ∀ p q : Fin 4, (s.ports.get p).state = .powering → (s.ports.get q).state = .powering → p = q
  served : s.powerQueue ≠ [] → ∃ p : Fin 4, (s.ports.get p).state = .powering

/-- R17, R5: every port's silent field is what its state, miss count and miss limit make it, and only a blinking lamp has a
lit half. -/
def PortLaw (s : State) : Prop :=
  ∀ p : Fin 4, (s.ports.get p).silent = (s.ports.get p).silentNow ∧
    ((s.ports.get p).blinkLit = true → (s.ports.get p).lamp.blinks = true)

/-! ## The line (R10, R31, R36) -/

/-- R31: the users that have a claim on the line: the one that holds it and those that wait. -/
def Bus.users (b : Bus) : List LineUser :=
  match b.holder with
  | .user u => u :: b.queue
  | .free | .brk | .recovery => b.queue

/-- R10, R31, R36: no user has two claims on the line; a free line has an empty queue; a port has an identity request
exactly while it is IDENTIFYING, and a zero request exactly while its zero outcome is PENDING, which only an ONLINE port's
is. -/
structure LineLaw (s : State) : Prop where
  once : s.bus.users.Nodup
  free : s.bus.holder = .free → s.bus.queue = []
  ident : ∀ p : Fin 4, .ident p ∈ s.bus.users ↔ (s.ports.get p).state = .identifying
  zero : ∀ p : Fin 4, .zero p ∈ s.bus.users ↔ (s.bus.status.get p).zero = .pending
  online : ∀ p : Fin 4, (s.bus.status.get p).zero = .pending → (s.ports.get p).state = .online

/-! ## Ratings and shifts (R60, R61, R66, R68, R79) -/

/-- R79: a shift list has at most twelve records, in strictly rising order of time, each shift within ±2,000 mm. -/
def ShiftListLaw (l : List Shift) : Prop :=
  l.length ≤ 12 ∧ l.Pairwise (fun a b => a.time < b.time) ∧ ∀ x ∈ l, shiftOk x.shift = true

/-- R60, R63: a point list has at most 48 points, in strictly rising order of stage, each in range. -/
def PointListLaw (l : List Point) : Prop :=
  l.length ≤ 48 ∧ l.Pairwise (fun a b => a.stage < b.stage) ∧
    ∀ x ∈ l, stageOk x.stage = true ∧ x.discharge ≤ maxDischarge

/-- R60, R68: the slot named as in force is the one slot in the state IN_FORCE. -/
def InForceLaw (st : RatingStore) : Prop :=
  ∀ k : Fin 3, st.inForce = some k ↔ (st.slots.get k).state = .inForce

/-- R60, R79: the laws of the rating store. -/
structure RatingLaw (s : State) : Prop where
  inForce : InForceLaw s.ratings
  points : ∀ k : Fin 3, PointListLaw (s.ratings.slots.get k).points
  shifts : ∀ k : Fin 3, ShiftListLaw (s.ratings.slots.get k).shifts

/-! ## Watches (R99, R105, R115, R117) -/

/-- R99, R105: the ranges of a watch's fields and the law of its count and its acked field. -/
structure WatchLaw (w : Watch) : Prop where
  raise : 1 ≤ w.raise ∧ w.raise ≤ 60
  clear : 1 ≤ w.clear ∧ w.clear ≤ 60
  level : 1 ≤ w.level ∧ w.level ≤ 4
  pending : w.state = .pending → w.count < w.raise
  easing : w.state = .easing → w.count < w.clear
  still : w.state ≠ .pending → w.state ≠ .easing → w.count = 0
  acked : w.state = .acked → w.acked = true
  unacked : w.state ≠ .acked → w.state ≠ .easing → w.acked = false

/-- R105, R115, R117: every installed watch keeps its law, and the lines and the demand are those that the watches and the
silenceable set call for. -/
structure WatchUnitLaw (s : State) : Prop where
  watches : ∀ k : Fin 24, ∀ w, s.watches.table.get k = some w → WatchLaw w
  lines : s.watches.lines = s.watches.linesNow
  demand : s.watches.demand = s.watches.demandNow

/-! ## The winch link (R124) -/

/-- R124: the assembler has nothing, or a faultless beginning of a message of the given characters. -/
abbrev Receiver.clean (chars : List Byte) (r : Receiver) : Prop :=
  r.overrun = false ∧ (∀ c ∈ r.assembled, c.framing = false) ∧ r.assembled.map (·.data) <+: chars ∧
    r.taken.length < chars.length

/-! ## The carriage under the withdraw demand (R136) -/

/-- R136: a command that does not move the carriage outward: a HALT, the homing move, or a move to 0. -/
def WinchCommand.inward : WinchCommand → Prop
  | .traverseTo d => d = 0
  | .hoistTo h => h = 0
  | .halt | .home => True

/-- R130, R135, R140: the carriage is at rest, homing or on its way home, in which no outward command can be its move. -/
def Carriage.homeward (c : Carriage) : Bool :=
  match c.state with
  | .unhomed | .homing | .parked | .raising | .returning | .stopped => true
  | .traversing => c.phase == .stopping
  | .lowering | .sounding | .setting | .waitingMeter => false

/-- R136, R137: a carriage at rest or on its way home awaits no outward command and holds none back; and while the withdraw
demand is true the carriage is nowhere else: it is not lowering, sounding, setting or holding the meter, a traverse toward a
vertical is being stopped, and a raise is followed by home. -/
structure WithdrawLaw (s : State) : Prop where
  awaited : s.carriage.homeward = true → ∀ o, s.carriage.awaited = some o → o.command.inward
  pending : s.carriage.homeward = true → ∀ m, s.carriage.pendingMove = some m → m.inward
  demand : s.watches.demand = true → s.carriage.homeward = true
  raising : s.watches.demand = true → s.carriage.state = .raising → s.carriage.onward = some .home

/-- R128, R129: a move is pending only under HOLD and with nothing awaited, and the move timer runs only for an awaited
command. -/
structure HoldLaw (s : State) : Prop where
  pending : s.carriage.pendingMove.isSome = true → s.carriage.hold = true ∧ s.carriage.awaited = none
  timer : s.carriage.moveLeft.isSome = true → s.carriage.awaited.isSome = true

/-! ## Gaugings (R157) -/

/-- R157: at most one gauging is RUNNING or SUSPENDED. -/
def GaugingLaw (s : State) : Prop :=
  ∀ i j : Fin 4, ∀ g h, s.gaugings.get i = some g → s.gaugings.get j = some h →
    g.state.isOpen = true → h.state.isOpen = true → i = j

end Sys2Proof.Machine
end

