-- ==== Sys2Proof/Certificates/Slice0/Obligations.lean ====
section
/-! DEFINITION. The statements for the provers. A verb's frame of the right length is written ⟨n, n⟩: its length byte and
the bytes that came, both as R187's table has them. -/

open Sys2Proof Sys2Proof.Machine

/-! ## The step and the resets -/

/-- The step takes the command at the front of the queue and runs it on the block with the queue's rest (the row's own
form of a step of a block). -/
def Obligations.StepRunsTheFrontCommand : Prop :=
  ∀ (c : Instr) (rest : List Instr) (s : State), step { s with pending := c :: rest } = exec c { s with pending := rest }

/-- What the manual says of the part right after a reset (the list of section 10.6 and the reset values of sections 2.9 and
11.4). -/
def Obligations.ResetLeavesEveryTableEmpty : Prop :=
  (∀ p : Fin 4, (State.reset.ports.get p).state = .empty ∧ (State.reset.ports.get p).enabled = false ∧
    (State.reset.ports.get p).address = p.val + 1 ∧ (State.reset.ports.get p).missLimit = 3) ∧
  State.reset.powerQueue = [] ∧ State.reset.bus.holder = .free ∧ State.reset.bus.queue = [] ∧
  State.reset.bus.divisor = 23 ∧ State.reset.bus.period = 60 ∧ State.reset.bus.cycleLeft = some 60000 ∧
  State.reset.selector.source = none ∧ State.reset.selector.lastSample = none ∧ State.reset.selector.returnDelay = 5 ∧
  State.reset.selector.disagreementLimit = 20 ∧ State.reset.selector.holdLimit = 30 ∧ State.reset.lastFlow = none ∧
  (∀ k : Fin 3, (State.reset.ratings.slots.get k).state = .empty) ∧ State.reset.ratings.inForce = none ∧
  State.reset.ratings.nextGeneration = 1 ∧ (∀ k : Fin 24, State.reset.watches.table.get k = none) ∧
  State.reset.watches.lines = 0 ∧ State.reset.watches.silenceable = 0 ∧ State.reset.watches.demand = false ∧
  State.reset.carriage.state = .unhomed ∧ State.reset.carriage.hold = true ∧ State.reset.carriage.moveTimeout = 300 ∧
  State.reset.meter.rating = none ∧ State.reset.meter.exposureTime = 40 ∧ State.reset.meter.exposing = false ∧
  (∀ n : Fin 4, State.reset.gaugings.get n = none) ∧ State.reset.host.time = 0 ∧ State.reset.host.clockUnset = true ∧
  State.reset.host.attention = 0 ∧ State.reset.attn = false ∧ State.reset.rdy = false

/-- Every law of Safety.lean holds right after a reset. -/
def Obligations.ResetKeepsTheLaws : Prop :=
  AttentionLaw .reset ∧ PowerLaw .reset ∧ PortLaw .reset ∧ LineLaw .reset ∧ RatingLaw .reset ∧ WatchUnitLaw .reset ∧
    WithdrawLaw .reset ∧ HoldLaw .reset ∧ GaugingLaw .reset

/-- RST_N asserted takes every record to its reset value, with the stage cycle timer stopped; its release starts that
timer; the RESET verb does both at its own event and leaves its OK response in the buffer. While RST_N is asserted every
event leaves the part as it is, and a transaction that is under way at the reset or begins during it is not taken when
it ends, before or after the release. Reading "held in reset" so, and keeping in `ignoring` that such a transaction is
under way, are the model's choices: notes/assumptions/36.md; so is the record of what was shifted out:
notes/assumptions/38.md. -/
def Obligations.ResetsTakeEveryRecordToItsResetValue : Prop :=
  (∀ s, exec .powerOnReset s = .next { State.reset with
      inReset := true, bus := { Bus.reset with cycleLeft := none }
      host := { CommandPort.reset with ignoring := decide (s.host.reception ≠ .idle) || s.host.ignoring }
      freeDraws := s.freeDraws, pending := s.pending }) ∧
  (∀ s, s.inReset = true → exec .resetRelease s = .next
    { s with inReset := false, bus := { s.bus with cycleLeft := some (s.bus.period * 1000) } }) ∧
  (∀ s, s.inReset = false → s.host.ignoring = false → exec (.reset ⟨1, 1⟩) s = .next { State.reset with
      host := { CommandPort.reset with buffer := some ⟨.ok, 0x03, .nil⟩, sdo := [0xFF, 0xFF] },
      freeDraws := s.freeDraws, pending := s.pending }) ∧
  (∀ (c : Instr) (s : State), s.inReset = true → c.frameLen = none → c ≠ .powerOnReset → c ≠ .resetRelease →
    (∀ n, c ≠ .readTransaction n) → (∀ b, c ≠ .transactionBegin b) → exec c s = .next s) ∧
  (∀ (b : Option FirstByte) (s : State), s.inReset = true →
    exec (.transactionBegin b) s = .next { s with host := { s.host with ignoring := b.isSome } }) ∧
  (∀ (c : Instr) (s : State), s.inReset = true ∨ s.host.ignoring = true →
    (∃ f, c.frameLen = some f) ∨ (∃ n, c = .readTransaction n) →
    exec c s = .next { s with host := { s.host with ignoring := false } })

/-! ## The command port -/

/-- The frame checks: a frame too short, too long or of the wrong length for its verb is refused with BAD_FIELD and its
frame fault, in that order, and no block is asked anything; a frame of an unknown verb that passes the two length checks is
refused with UNKNOWN_VERB. -/
def Obligations.FrameChecksRefuseInOrder : Prop :=
  (∀ (i : Instr) (f : FrameLen) (code : Byte) (fields : List Byte) (s : State),
    s.inReset = false → s.host.ignoring = false → i.frameLen = some f → encodeVerb i = some (code :: fields) →
    (f.received < f.declared.toNat → exec i s = .next (respond f.received ⟨.badField, code, .frameFault .short⟩ s)) ∧
    (f.declared.toNat < f.received → exec i s = .next (respond f.received ⟨.badField, code, .frameFault .long⟩ s)) ∧
    (f.received = f.declared.toNat → f.received ≠ fields.length + 1 →
      exec i s = .next (respond f.received ⟨.badField, code, .frameFault .layout⟩ s))) ∧
  (∀ (b : Byte) (d : Byte) (n : Nat) (s : State), s.inReset = false → s.host.ignoring = false →
    (n < d.toNat → exec (.unknownVerb ⟨d, n⟩ (some b)) s = .next (respond n ⟨.badField, b, .frameFault .short⟩ s)) ∧
    (d.toNat < n → exec (.unknownVerb ⟨d, n⟩ (some b)) s = .next (respond n ⟨.badField, b, .frameFault .long⟩ s)) ∧
    (n = d.toNat → exec (.unknownVerb ⟨d, n⟩ (some b)) s = .next (respond n ⟨.unknownVerb, b, .nil⟩ s)))

/-- A transaction's first whole byte gives its kind, and without one the record stays as it was; the bits are taken most
significant first, and the part counts the whole bytes after the first. A response replaces the one held and asserts
RDY. A read that shifts the whole frame out empties the buffer and drops RDY; a shorter read keeps it; an empty buffer
shifts out 0x00 and filler; a command transaction shifts out filler. The bytes go out on SDO from the CS_N falling edge,
each most significant bit first; while the first byte of a transaction comes, filler goes out (DEDUCED, for the kind is
not known yet). When the counts of a transaction stand, the record of what was shifted out, the moment at which a response
above 255 bytes counts as read whole, and that a TRANSACTION_BEGIN clears what a reset left to ignore (DEDUCED), are the
model's choices: notes/assumptions/10.md, 38.md, 4.md and 36.md. -/
def Obligations.TransactionsKeepTheResponseUntilReadWhole : Prop :=
  (∀ n r s, (respond n r s).host.buffer = some r ∧ (respond n r s).rdy = true) ∧
  (∀ (c : Instr) (f : FrameLen) (s : State), s.inReset = false → s.host.ignoring = false → c.frameLen = some f →
    ∃ t, exec c s = .next t ∧ t.rdy = true ∧ t.host.reception = .idle ∧
      t.host.sdo = List.replicate (f.received + 1) 0xFF) ∧
  (∀ r n s, s.inReset = false → s.host.ignoring = false → s.host.buffer = some r → exec (.readTransaction n) s = .next
    { s with host := { s.host with
        reception := .idle
        sdo := [0xFF] ++ r.frame.take n ++ List.replicate (n - r.frame.length) 0xFF
        buffer := if r.frame.length ≤ n then none else some r } }) ∧
  (∀ n s, s.inReset = false → s.host.ignoring = false → s.host.buffer = none → exec (.readTransaction n) s = .next
    { s with host := { s.host with
        reception := .idle, sdo := 0xFF :: (0x00 :: List.replicate n 0xFF).take n, buffer := none } }) ∧
  (∀ n s, s.inReset = false →
    exec (.transactionBegin none) s = .next { s with host := { s.host with ignoring := false } } ∧
    (∀ r, s.host.buffer = some r → exec (.transactionBegin (some ⟨0, n⟩)) s = .next { s with host := { s.host with
      ignoring := false, reception := .read n,
      sdo := [0xFF] ++ r.frame.take n ++ List.replicate (n - r.frame.length) 0xFF } }) ∧
    (s.host.buffer = none → exec (.transactionBegin (some ⟨0, n⟩)) s = .next { s with host := { s.host with
      ignoring := false, reception := .read n, sdo := 0xFF :: (0x00 :: List.replicate n 0xFF).take n } }) ∧
    ∀ b : Byte, b ≠ 0 → exec (.transactionBegin (some ⟨b, n⟩)) s = .next { s with host := { s.host with
      ignoring := false, reception := .command b n, sdo := List.replicate (n + 1) 0xFF } }) ∧
  (∀ h : CommandPort, h.sdoBits = h.sdo.flatMap fun b => [b.getLsbD 7, b.getLsbD 6, b.getLsbD 5, b.getLsbD 4, b.getLsbD 3,
    b.getLsbD 2, b.getLsbD 1, b.getLsbD 0]) ∧
  (∀ (bytes : List Byte) (part : List Bool), part.length < 8 →
    decodeTransaction (bytes.flatMap (fun b => (List.range 8).map b.getMsbD) ++ part) = (match bytes with
      | [] => .transactionBegin none
      | first :: rest => if first = 0 then .readTransaction rest.length else decodeFrame first rest))

/-- The clock: SET_TIME, READ_TIME and the rise of each second, which stops at the last value. READ_ATTENTION answers with
the set as it stands and empties it, and ATTN drops; an event after it puts its member alone in the set and asserts ATTN
again. The reception at a verb's end and the record of what was shifted out are the model's choices:
notes/assumptions/10.md and 38.md. -/
def Obligations.TheClockAndTheAttentionSetAreServed : Prop :=
  ∀ s, s.inReset = false →
    (∀ time : Word, s.host.ignoring = false → exec (.setTime ⟨5, 5⟩ time) s = .next { s with host := { s.host with
        time := time.toNat, clockUnset := false, reception := .idle, sdo := List.replicate 6 0xFF
        buffer := some ⟨.ok, 0x01, .timeSet time.toNat s.host.time s.host.clockUnset⟩ } }) ∧
    (s.host.ignoring = false → exec (.readTime ⟨1, 1⟩) s = .next { s with host := { s.host with
        reception := .idle, sdo := [0xFF, 0xFF], buffer := some ⟨.ok, 0x02, .time s.host.time s.host.clockUnset⟩ } }) ∧
    exec .stationTimeRise s = .next { s with host := { s.host with
        time := if s.host.time < 4294967295 then s.host.time + 1 else s.host.time } } ∧
    (s.host.ignoring = false → ∃ t, exec (.readAttention ⟨1, 1⟩) s = .next t ∧
      t = { s with host := { s.host with
          attention := 0, reception := .idle, sdo := [0xFF, 0xFF]
          buffer := some ⟨.ok, 0x04, .attention s.host.attention⟩ } } ∧
      t.attn = false ∧
      ∀ m : Member, (addMember m t).attn = true ∧ ∀ n : Member, hasMember (addMember m t).host.attention n = decide (n = m))

/-- A host frame is read back from the bytes that R187's table writes: the round trip of every verb. Reading the bytes
of a frame into operands is the model's form of a verb: notes/assumptions/11.md. -/
def Obligations.EveryVerbFrameDecodesToItsVerb : Prop :=
  ∀ (i : Instr) (f : FrameLen) (bytes : List Byte), i.frameLen = some f → encodeVerb i = some bytes →
    f.declared.toNat = bytes.length → f.received = bytes.length → decodeFrame f.declared bytes = i

/-! ## Ports -/

/-- The power enable and the tap by state. -/
def Obligations.StateDecidesPowerAndTap : Prop :=
  ∀ st : PortState,
    (st.powered = true ↔ st = .powering ∨ st = .identifying ∨ st = .online ∨ st = .removing) ∧
    (st.tapped = true ↔ st = .identifying ∨ st = .online ∨ st = .removing)

/-- PORT_CONFIG writes the six host-given fields at once and nothing else but the silent field and the lamp's blink; it is
refused for a port above 3, a field out of range, another port's address, and a change of a fixed field on a powered port;
PORT_READ answers with the record. The reception at a verb's end and the record of what was shifted out are the model's
choices: notes/assumptions/10.md and 38.md. -/
def Obligations.PortConfigWritesTheSixFields : Prop :=
  ∀ (port kind address : Byte) (datum : Word) (cls mode missLimit : Byte) (s : State), s.inReset = false → s.host.ignoring = false →
    (3 < port.toNat ∨ portFields kind address datum cls mode missLimit = none →
      exec (.portConfig ⟨11, 11⟩ port kind address datum cls mode missLimit) s =
        .next (respond 11 ⟨.badField, 0x10, .nil⟩ s)) ∧
    ∀ (p : Fin 4) (fs : PortFields), port.toNat = p.val →
      exec (.portRead ⟨2, 2⟩ port) s =
        .next (respond 2 ⟨.ok, 0x13, .port (s.ports.get p) (queuePosition s.powerQueue p) s.powerQueue⟩ s) ∧
      (portFields kind address datum cls mode missLimit = some fs →
        ((∃ q, q ≠ p ∧ (s.ports.get q).address = fs.address) →
          exec (.portConfig ⟨11, 11⟩ port kind address datum cls mode missLimit) s =
            .next (respond 11 ⟨.badField, 0x10, .nil⟩ s)) ∧
        ((∀ q, q ≠ p → (s.ports.get q).address ≠ fs.address) →
          ((s.ports.get p).state.powered = true → fs.kind ≠ (s.ports.get p).kind ∨
              fs.address ≠ (s.ports.get p).address ∨ fs.pgMode ≠ (s.ports.get p).pgMode →
            exec (.portConfig ⟨11, 11⟩ port kind address datum cls mode missLimit) s =
              .next (respond 11 ⟨.wrongState, 0x10, .nil⟩ s)) ∧
          ((s.ports.get p).state.powered = false ∨ (fs.kind = (s.ports.get p).kind ∧
              fs.address = (s.ports.get p).address ∧ fs.pgMode = (s.ports.get p).pgMode) →
            ∃ t, exec (.portConfig ⟨11, 11⟩ port kind address datum cls mode missLimit) s = .next t ∧
              t = { s with ports := t.ports, host := t.host } ∧ (∀ q, q ≠ p → t.ports.get q = s.ports.get q) ∧
              t.ports.get p = { s.ports.get p with
                kind := fs.kind, address := fs.address, datum := fs.datum, cls := fs.cls, pgMode := fs.pgMode,
                missLimit := fs.missLimit, silent := (s.ports.get p).state.polled && decide (fs.missLimit ≤ (s.ports.get p).missCount),
                blinkLit := (t.ports.get p).blinkLit } ∧
              t.host = { s.host with
                reception := .idle, sdo := List.replicate 12 0xFF
                buffer := some ⟨.ok, 0x10, .port (t.ports.get p) (queuePosition s.powerQueue p) s.powerQueue⟩
                attention := if (t.ports.get p).silent = (s.ports.get p).silent then s.host.attention
                  else withMember s.host.attention (.port p) })))

/-- Where a port that has come to have a head, a closed latch and the host's consent stands: powered at once when no other
port has the inrush budget, and else at the back of the power queue. -/
def powerReply (s : State) : PortState := if s.powerQueue = [] ∧ anyPowering s.ports = false then .powering else .waiting

/-- PORT_ENABLE by the state it finds: an EMPTY, DISABLED or FAULTED port ends enabled and EMPTY, or waiting for power or
powered when the four conditions hold; in the other states nothing changes. -/
def Obligations.PortEnableByState : Prop :=
  ∀ (port : Byte) (p : Fin 4) (s : State), s.inReset = false → s.host.ignoring = false → port.toNat = p.val → PowerLaw s →
    ((s.ports.get p).state ≠ .disabled → (s.ports.get p).state ≠ .faulted →
      ((s.ports.get p).state = .empty → (s.ports.get p).enabled = true ∧ (s.ports.get p).removedNotPulled = false) →
      exec (.portEnable ⟨2, 2⟩ port) s =
        .next (respond 2 ⟨.ok, 0x11, .port (s.ports.get p) (queuePosition s.powerQueue p) s.powerQueue⟩ s)) ∧
    ((s.ports.get p).state = .disabled ∨ (s.ports.get p).state = .faulted ∨
        ((s.ports.get p).state = .empty ∧ ((s.ports.get p).enabled = false ∨ (s.ports.get p).removedNotPulled = true)) →
      ∃ t, exec (.portEnable ⟨2, 2⟩ port) s = .next t ∧
        t = { s with ports := t.ports, powerQueue := t.powerQueue, host := t.host } ∧
        (∀ q, q ≠ p → t.ports.get q = s.ports.get q) ∧
        (∃ (state : PortState) (fault : Option FaultCause) (ident : Option Identity) (misses : Nat) (removed silent lit : Bool)
            (timer : Option PortTimer), t.ports.get p = { s.ports.get p with
          state := state, enabled := true, faultCause := fault, identity := ident, missCount := misses,
          removedNotPulled := removed, silent := silent, blinkLit := lit, timer := timer }) ∧
        ((t.ports.get p).state = .powering → (t.ports.get p).timer = some (s.ports.get p).pgMode.wait) ∧
        ((s.ports.get p).state = .disabled → (t.ports.get p).removedNotPulled = false) ∧
        ((s.ports.get p).state = .faulted → (t.ports.get p).faultCause = none ∧ (t.ports.get p).identity = none) ∧
        ((s.ports.get p).enabled = true → (s.ports.get p).removedNotPulled = true → (s.ports.get p).state = .empty →
          (t.ports.get p).removedNotPulled = false) ∧
        (t.ports.get p).state =
          (if (t.ports.get p).present && (t.ports.get p).latchClosed && !(t.ports.get p).removedNotPulled then
            powerReply s else .empty) ∧
        t.powerQueue = (if (t.ports.get p).state = .waiting then s.powerQueue ++ [p] else s.powerQueue) ∧
        t.host.buffer = some ⟨.ok, 0x11, .port (t.ports.get p) (queuePosition t.powerQueue p) t.powerQueue⟩)

/-- PORT_DISABLE: a port in service goes out of it with its record cleared; a FAULTED port only loses its consent; a
DISABLED one does not change. -/
def Obligations.PortDisableTakesThePortOut : Prop :=
  ∀ (port : Byte) (p : Fin 4) (s : State), s.inReset = false → s.host.ignoring = false → port.toNat = p.val → PowerLaw s → PortLaw s → LineLaw s →
    ((s.ports.get p).state = .disabled → exec (.portDisable ⟨2, 2⟩ port) s =
      .next (respond 2 ⟨.ok, 0x12, .port (s.ports.get p) (queuePosition s.powerQueue p) s.powerQueue⟩ s)) ∧
    ∃ t, exec (.portDisable ⟨2, 2⟩ port) s = .next t ∧
      ((s.ports.get p).state = .faulted → t.ports.get p = { s.ports.get p with enabled := false }) ∧
      ((s.ports.get p).state ≠ .faulted → (s.ports.get p).state ≠ .disabled →
        t.ports.get p = { s.ports.get p with
          state := .disabled, enabled := false, missCount := 0, identity := none, removedNotPulled := false,
          timer := none, silent := false, blinkLit := false }) ∧
      p ∉ t.powerQueue ∧
      (∀ q, q ≠ p → t.ports.get q = s.ports.get q ∨
        ((s.ports.get q).state = .waiting ∧ (t.ports.get q).state = .powering)) ∧
      (s.bus.holder = .free → t = { s with ports := t.ports, powerQueue := t.powerQueue, host := t.host })

/-- Presence arrival and latch closing set their level and, when they complete the four conditions of an EMPTY port, send
it for power, with its member set; when they do not, nothing else changes. -/
def Obligations.InsertionAsksForPower : Prop :=
  ∀ (p : Fin 4) (s : State), s.inReset = false → PowerLaw s → PortLaw s →
    (∃ t, exec (.presenceArrival p) s = .next t ∧
      t = { s with ports := t.ports, powerQueue := t.powerQueue, host := t.host } ∧
      (∀ q, q ≠ p → t.ports.get q = s.ports.get q) ∧
      (∃ (state : PortState) (lit : Bool) (timer : Option PortTimer), t.ports.get p =
        { s.ports.get p with present := true, state := state, blinkLit := lit, timer := timer }) ∧
      ((t.ports.get p).state = (s.ports.get p).state ∨ (t.ports.get p).state = .waiting ∨
        (t.ports.get p).timer = some (s.ports.get p).pgMode.wait) ∧
      (t.ports.get p).state = (if (s.ports.get p).state = .empty ∧ (s.ports.get p).latchClosed = true ∧
        (s.ports.get p).enabled = true ∧ (s.ports.get p).removedNotPulled = false then powerReply s
        else (s.ports.get p).state) ∧
      ((t.ports.get p).state = (s.ports.get p).state →
        t = { s with ports := putAt s.ports p { s.ports.get p with present := true } }) ∧
      ((t.ports.get p).state ≠ (s.ports.get p).state → hasMember t.host.attention (.port p) = true)) ∧
    (∃ t, exec (.latchClosing p) s = .next t ∧
      t = { s with ports := t.ports, powerQueue := t.powerQueue, host := t.host } ∧
      (∀ q, q ≠ p → t.ports.get q = s.ports.get q) ∧
      (∃ (state : PortState) (lit : Bool) (timer : Option PortTimer), t.ports.get p =
        { s.ports.get p with latchClosed := true, state := state, blinkLit := lit, timer := timer }) ∧
      ((t.ports.get p).state = (s.ports.get p).state ∨ (t.ports.get p).state = .waiting ∨
        (t.ports.get p).timer = some (s.ports.get p).pgMode.wait) ∧
      (t.ports.get p).state = (if (s.ports.get p).state = .empty ∧ (s.ports.get p).present = true ∧
        (s.ports.get p).enabled = true ∧ (s.ports.get p).removedNotPulled = false then powerReply s
        else (s.ports.get p).state) ∧
      ((t.ports.get p).state = (s.ports.get p).state →
        t = { s with ports := putAt s.ports p { s.ports.get p with latchClosed := true } }) ∧
      ((t.ports.get p).state ≠ (s.ports.get p).state → hasMember t.host.attention (.port p) = true))

/-- Presence loss ends in EMPTY from every state, with the record cleared but for the host-given fields and the consent;
a port already EMPTY loses only present and removed-not-pulled. Latch opening faults a powered port, empties a waiting one
and only changes the level of the others. -/
def Obligations.LossesEmptyOrFaultThePort : Prop :=
  ∀ (p : Fin 4) (s : State), s.inReset = false → PowerLaw s → PortLaw s → LineLaw s →
    (∃ t, exec (.presenceLoss p) s = .next t ∧
      t.ports.get p = (if (s.ports.get p).state = .empty then
          { s.ports.get p with present := false, removedNotPulled := false }
        else { s.ports.get p with
          state := .empty, present := false, removedNotPulled := false, faultCause := none, missCount := 0,
          attempts := 0, identity := none, timer := none, silent := false, blinkLit := false }) ∧
      ((s.ports.get p).state ≠ .empty → hasMember t.host.attention (.port p) = true) ∧ p ∉ t.powerQueue ∧
      (∀ q, q ≠ p → t.ports.get q = s.ports.get q ∨
        ((s.ports.get q).state = .waiting ∧ (t.ports.get q).state = .powering)) ∧
      (s.bus.holder = .free → t = { s with ports := t.ports, powerQueue := t.powerQueue, host := t.host })) ∧
    (∃ t, exec (.latchOpening p) s = .next t ∧
      t.ports.get p = (match (s.ports.get p).state with
        | .powering | .identifying | .online | .removing =>
          { s.ports.get p with
            state := .faulted, faultCause := some .latchOpened, latchClosed := false, timer := none, silent := false,
            blinkLit := true }
        | .waiting =>
          { s.ports.get p with
            state := .empty, faultCause := none, latchClosed := false, missCount := 0, identity := none, timer := none,
            silent := false, blinkLit := false }
        | .empty | .faulted | .disabled => { s.ports.get p with latchClosed := false }) ∧
      ((t.ports.get p).state ≠ (s.ports.get p).state → hasMember t.host.attention (.port p) = true) ∧
      (∀ q, q ≠ p → t.ports.get q = s.ports.get q ∨
        ((s.ports.get q).state = .waiting ∧ (t.ports.get q).state = .powering)) ∧
      (s.bus.holder = .free → t = { s with ports := t.ports, powerQueue := t.powerQueue, host := t.host }))

/-- A status assertion is a power fault in IDENTIFYING, ONLINE and REMOVING and during a fixed delay, and otherwise only a
level, as a status release always is. -/
def Obligations.StatusAssertionIsAPowerFault : Prop :=
  ∀ (p : Fin 4) (s : State), s.inReset = false → PowerLaw s → PortLaw s → LineLaw s →
    (exec (.statusRelease p) s =
      .next { s with ports := putAt s.ports p { s.ports.get p with statusAsserted := false } }) ∧
    ∃ t, exec (.statusAssertion p) s = .next t ∧
      ((s.ports.get p).state = .identifying ∨ (s.ports.get p).state = .online ∨ (s.ports.get p).state = .removing ∨
          ((s.ports.get p).state = .powering ∧ ∃ n, (s.ports.get p).timer = some (.fixedDelay n)) →
        t.ports.get p = { s.ports.get p with
          statusAsserted := true, state := .faulted, faultCause := some .powerFault, timer := none, silent := false,
          blinkLit := true } ∧ hasMember t.host.attention (.port p) = true) ∧
      ((s.ports.get p).state ≠ .identifying → (s.ports.get p).state ≠ .online → (s.ports.get p).state ≠ .removing →
          ((s.ports.get p).state = .powering → ∀ n, (s.ports.get p).timer ≠ some (.fixedDelay n)) →
        t = { s with ports := putAt s.ports p { s.ports.get p with statusAsserted := true } }) ∧
      (∀ q, q ≠ p → t.ports.get q = s.ports.get q ∨
        ((s.ports.get q).state = .waiting ∧ (t.ports.get q).state = .powering)) ∧
      (s.bus.holder = .free → t = { s with ports := t.ports, powerQueue := t.powerQueue, host := t.host })

/-- The attention button starts a removal on an ONLINE port, cancels it on a REMOVING one with the miss count and the
identity kept, cancels the request of a WAITING one, and has no effect on the others but its level; at the hold-off's
expiry the port is EMPTY with removed-not-pulled set. That the expiry comes at whatever time is left, and that the
button's debounced level stays as the press left it, are the model's choices: notes/assumptions/9.md,
notes/assumptions/34.md. -/
def Obligations.TheButtonRemovesAHead : Prop :=
  ∀ (p : Fin 4) (s : State), s.inReset = false → PowerLaw s → PortLaw s → LineLaw s →
    (∃ t, exec (.buttonPress p) s = .next t ∧
      t.ports.get p = (match (s.ports.get p).state with
        | .online =>
          { s.ports.get p with button := true, state := .removing, timer := some (.holdOff 5000), blinkLit := true }
        | .removing =>
          { s.ports.get p with button := true, state := .online, timer := none, blinkLit := false }
        | .waiting =>
          { s.ports.get p with
            button := true, state := .empty, faultCause := none, removedNotPulled := true, missCount := 0,
            identity := none, timer := none, silent := false, blinkLit := false }
        | .empty | .powering | .identifying | .faulted | .disabled => { s.ports.get p with button := true }) ∧
      ((t.ports.get p).state ≠ (s.ports.get p).state → hasMember t.host.attention (.port p) = true) ∧
      (s.bus.holder = .free → t = { s with ports := t.ports, powerQueue := t.powerQueue, host := t.host })) ∧
    (∀ n, (s.ports.get p).state = .removing → (s.ports.get p).timer = some (.holdOff n) →
      ∃ t, exec (.holdOffExpiry p) s = .next t ∧
        t.ports.get p = { s.ports.get p with
          state := .empty, faultCause := none, removedNotPulled := true, missCount := 0, identity := none,
          timer := none, silent := false, blinkLit := false } ∧
        hasMember t.host.attention (.port p) = true ∧
        (s.bus.holder = .free → t = { s with ports := t.ports, powerQueue := t.powerQueue, host := t.host }))

/-- Power good, with the debounced PFL_n released, and the end of a fixed delay take a POWERING port to IDENTIFYING with
its identity request placed; while PFL_n stands asserted, POWER_GOOD changes nothing; the power-good timeout faults the
port. Either way the power sequencer is free for the next port, which it takes from the front of the queue into POWERING
with the wait of its mode. A blinking lamp changes its half. That POWER_SEQUENCER_TAKE comes as a command of its own is
the model's choice, notes/assumptions/8.md, and so are that an expiry comes at whatever time its running timer has left,
notes/assumptions/9.md, and that a POWER_GOOD beside an asserted PFL_n is no power good, notes/assumptions/45.md. -/
def Obligations.PowerIsGivenAndComesGood : Prop :=
  (∀ (p : Fin 4) (rest : List (Fin 4)) (s : State), s.inReset = false → s.powerQueue = p :: rest →
    (∀ q, (s.ports.get q).state ≠ .powering) → (s.ports.get p).state = .waiting →
    ∃ t, exec .powerSequencerTake s = .next t ∧ t.powerQueue = rest ∧ (t.ports.get p).state = .powering ∧
      (t.ports.get p).timer = some (match (s.ports.get p).pgMode with
        | .input => .powerGoodWait 2000
        | .fixed100 => .fixedDelay 100
        | .fixed250 => .fixedDelay 250
        | .fixed500 => .fixedDelay 500) ∧
      hasMember t.host.attention (.port p) = true ∧ (∀ q, q ≠ p → t.ports.get q = s.ports.get q) ∧
      t = { s with ports := t.ports, powerQueue := t.powerQueue, host := t.host }) ∧
  (∀ (p : Fin 4) (s : State), s.inReset = false → (s.ports.get p).lamp.blinks = true →
    exec (.lampBlink p) s =
      .next { s with ports := putAt s.ports p { s.ports.get p with blinkLit := !(s.ports.get p).blinkLit } }) ∧
  (∀ (p : Fin 4) (n : Nat) (s : State), s.inReset = false → PowerLaw s → PortLaw s → LineLaw s →
      (s.ports.get p).state = .powering →
      (∀ c, (c = .powerGood p ∧ (s.ports.get p).statusAsserted = false ∧
              (s.ports.get p).timer = some (.powerGoodWait n)) ∨
            (c = .fixedDelayEnd p ∧ (s.ports.get p).timer = some (.fixedDelay n)) →
        ∃ t, exec c s = .next t ∧
          t.ports.get p = { s.ports.get p with
            state := .identifying, attempts := 0, missCount := 0, identity := none, timer := none, silent := false } ∧
          (s.bus.holder = .free → t.bus.holder = .user (.ident p)) ∧
          (s.bus.holder ≠ .free → t.bus.queue = s.bus.queue ++ [.ident p]) ∧
          hasMember t.host.attention (.port p) = true ∧
          t = { s with ports := t.ports, powerQueue := t.powerQueue, host := t.host, bus := t.bus }) ∧
      ((s.ports.get p).statusAsserted = true → exec (.powerGood p) s = .next s) ∧
      ((s.ports.get p).timer = some (.powerGoodWait n) →
        ∃ t, exec (.pgTimeout p) s = .next t ∧
          t.ports.get p = { s.ports.get p with
            state := .faulted, faultCause := some .pgTimeout, timer := none, silent := false, blinkLit := true } ∧
          hasMember t.host.attention (.port p) = true ∧
          t = { s with ports := t.ports, powerQueue := t.powerQueue, host := t.host }))

/-! ## The sensor bus -/

/-- The bit rate of a divisor is 3,686,400 / (16 × (divisor + 1)), exact where the quotient is whole and one of its two
neighbours elsewhere (its rounding is free: notes/assumptions/5.md). BUS_CONFIG: a divisor above 4,095 is refused, with
a response that carries no field (the model's choice: notes/assumptions/21.md); otherwise the divisor is in use at once
on a free line, pending on a held one, and a different period restarts the stage cycle timer. HEAD_ZERO of an ONLINE
PRESSURE port with no zero pending sets the outcome PENDING and places the ZERO user. The reception at a verb's end and
the record of what was shifted out are the model's choices: notes/assumptions/10.md and 38.md. -/
def Obligations.BusConfigAndHeadZeroAreTaken : Prop :=
  (∀ d : Nat, (16 * (d + 1) ∣ 3686400 → bitRate d * (16 * (d + 1)) = 3686400) ∧
    3686400 / (16 * (d + 1)) ≤ bitRate d ∧ bitRate d ≤ 3686400 / (16 * (d + 1)) + 1) ∧
  ∀ (divisor period : Half) (s : State), s.inReset = false → s.host.ignoring = false →
    (4095 < divisor.toNat → exec (.busConfig ⟨5, 5⟩ divisor period) s = .next (respond 5 ⟨.badField, 0x15, .nil⟩ s)) ∧
    (divisor.toNat ≤ 4095 → ∃ b, exec (.busConfig ⟨5, 5⟩ divisor period) s =
        .next (respond 5 ⟨.ok, 0x15, .bus b⟩ { s with bus := b }) ∧
      b = { s.bus with
        divisor := b.divisor, pendingDivisor := b.pendingDivisor, period := b.period, cycleLeft := b.cycleLeft } ∧
      b.divisor = (if s.bus.holder = .free then divisor.toNat else s.bus.divisor) ∧
      b.pendingDivisor = (if s.bus.holder = .free ∨ divisor.toNat = s.bus.divisor then none else some divisor.toNat) ∧
      b.period = (if period.toNat < 1 then 1 else if 3600 < period.toNat then 3600 else period.toNat) ∧
      b.cycleLeft = (if b.period = s.bus.period then s.bus.cycleLeft else some (b.period * 1000))) ∧
    ∀ (port : Byte) (p : Fin 4), port.toNat = p.val →
      ((s.ports.get p).state ≠ .online ∨ (s.ports.get p).kind ≠ .pressure →
        exec (.headZero ⟨2, 2⟩ port) s = .next (respond 2 ⟨.wrongState, 0x14, .nil⟩ s)) ∧
      ((s.ports.get p).state = .online → (s.ports.get p).kind = .pressure →
        ((s.bus.status.get p).zero = .pending →
          exec (.headZero ⟨2, 2⟩ port) s = .next (respond 2 ⟨.busy, 0x14, .nil⟩ s)) ∧
        ((s.bus.status.get p).zero ≠ .pending → ∃ t, exec (.headZero ⟨2, 2⟩ port) s = .next t ∧
          t = { s with bus := t.bus, host := { s.host with buffer := some ⟨.ok, 0x14, .nil⟩, reception := .idle, sdo := [0xFF, 0xFF, 0xFF] } } ∧
          t.bus.status = putAt s.bus.status p { s.bus.status.get p with zero := .pending } ∧
          (s.bus.holder = .free → s.bus.queue = [] → t.bus.holder = .user (.zero p) ∧ t.bus.phase = .awaitFrame) ∧
          (s.bus.holder ≠ .free → t.bus.holder = s.bus.holder ∧ t.bus.queue = s.bus.queue ++ [.zero p])))

/-- BUS_RESTART: the break takes the line at once, abandons the round and the exchange in flight, cancels every zero, leaves
only a queued ROUND, and sends every port in ONLINE, REMOVING and IDENTIFYING to IDENTIFYING behind it, in port order; it is
refused with BUSY during a break or its recovery. -/
def Obligations.TheBreakRestartsEveryHead : Prop :=
  ∀ s : State, s.inReset = false → s.host.ignoring = false →
    (s.bus.holder = .brk ∨ s.bus.holder = .recovery →
      exec (.busRestart ⟨1, 1⟩) s = .next (respond 1 ⟨.busy, 0x16, .nil⟩ s)) ∧
    (s.bus.holder ≠ .brk → s.bus.holder ≠ .recovery → ∃ t, exec (.busRestart ⟨1, 1⟩) s = .next t ∧
      t = { s with bus := t.bus, ports := t.ports, host := t.host } ∧
      t.host.buffer = some ⟨.ok, 0x16, .nil⟩ ∧ t.bus.holder = .brk ∧ t.bus.phase = .idle ∧ t.bus.roundTodo = [] ∧
      t.bus.queue = (s.bus.queue.filter fun u => u == .round) ++
        ((List.finRange 4).filter fun p => decide ((s.ports.get p).state.tapped = true)).map LineUser.ident ∧
      ∀ p : Fin 4,
        ((s.ports.get p).state.tapped = false → t.ports.get p = s.ports.get p) ∧
        ((s.ports.get p).state.tapped = true →
          (t.ports.get p).state = .identifying ∧ (t.ports.get p).attempts = 0 ∧ (t.ports.get p).missCount = 0 ∧
          (t.ports.get p).identity = none ∧ (t.ports.get p).timer = none) ∧
        (s.bus.hasZero p = true → (t.bus.status.get p).zero = .cancelled ∧
          hasMember t.host.attention (.port p) = true))

/-- The reading records of a round at its close, from its polls in order (R34): one for each member that is ONLINE. -/
def readingsOf (ports : Vector Port 4) (polls : List Poll) : List ReadingRecord :=
  polls.filterMap fun x => if (ports.get x.port).state = .online then
    some ⟨x.port, x.reading.map (·.1), x.reading.map (·.2), (match x.reading with
      | some (_, .ok) | some (_, .degraded) => true
      | some (_, .failed) | none => false), (ports.get x.port).silent⟩
  else none

/-- What a round's close does from end to end, from `s` to `t`, with the ports as they stand at it and the round's reading
records (R41, R57, R67, R69, R86, R94, R102, R119): the selector takes the records and publishes one sample, the ratings
are evaluated at its time, the flow sample is computed on the rating then in force and kept, every installed watch and
every open gauging takes it, and the members follow. -/
def closesWith (s t : State) (ports : Vector Port 4) (recs : List ReadingRecord) : Prop :=
  ∃ (x : StageSample) (f : FlowSample) (w : State),
    t.selector = closeSelector s.host.time ports recs s.selector ∧ t.selector.lastSample = some x ∧ x.time = s.host.time ∧
    t.ratings = evaluateStore s.host.time s.ratings ∧ f = flowOf t.ratings x ∧ t.lastFlow = some f ∧
    (∀ k, t.watches.table.get k = (s.watches.table.get k).map fun v => v.take f) ∧
    t.watches = { s.watches with table := t.watches.table }.settled ∧
    w = putWatches { s.watches with table := t.watches.table } s ∧ t.carriage = w.carriage ∧ t.meter = w.meter ∧
    t.gaugings = (gaugingTakeFlow x w).gaugings ∧
    hasMember t.host.attention .sourceChange = (hasMember s.host.attention .sourceChange || x.sourceChanged) ∧
    hasMember t.host.attention .qualityChange = (hasMember s.host.attention .qualityChange ||
      decide (x.quality ≠ (match s.selector.lastSample with
        | some y => y.quality
        | none => .lost))) ∧
    hasMember t.host.attention .ratingSwap = (hasMember s.host.attention .ratingSwap ||
      decide (∃ k : Fin 3, (t.ratings.slots.get k).state ≠ (s.ratings.slots.get k).state)) ∧
    ∀ k : Fin 24, hasMember t.host.attention (.watch k) = (hasMember s.host.attention (.watch k) ||
      decide ((t.watches.table.get k).map (·.state) ≠ (s.watches.table.get k).map (·.state)))

/-- The stage cycle expiry restarts its timer and offers a round: it starts on a free line with its members fixed, joins
the queue behind another user, and is dropped with ROUND_OVERRUN when a round holds the line or waits. A round with no
members closes at its start, from end to end, with an empty result. That the expiry comes at whatever time is left is
the model's choice: notes/assumptions/9.md. -/
def Obligations.TheStageCycleOffersARound : Prop :=
  ∀ s : State, s.inReset = false →
    (s.bus.holder = .user .round ∨ .round ∈ s.bus.queue → exec .stageCycleExpiry s = .next
      { s with
        bus := { s.bus with cycleLeft := some (s.bus.period * 1000) }
        host := { s.host with attention := withMember s.host.attention .roundOverrun } }) ∧
    (s.bus.holder ≠ .free → s.bus.holder ≠ .user .round → .round ∉ s.bus.queue → exec .stageCycleExpiry s = .next
      { s with bus := { s.bus with
          cycleLeft := some (s.bus.period * 1000), queue := s.bus.queue ++ [.round] } }) ∧
    (s.bus.holder = .free → s.bus.queue = [] → roundMembers s.ports ≠ [] → exec .stageCycleExpiry s = .next
      { s with bus := { s.bus with
          cycleLeft := some (s.bus.period * 1000), holder := .user .round, phase := .awaitFrame,
          roundTodo := roundMembers s.ports, roundPolls := [], queue := [] } }) ∧
    (s.bus.holder = .free → s.bus.queue = [] → roundMembers s.ports = [] → ∃ t, exec .stageCycleExpiry s = .next t ∧
      t.bus = { s.bus with cycleLeft := some (s.bus.period * 1000) } ∧ closesWith s t s.ports [] ∧
      t = { s with
        bus := t.bus, selector := t.selector, ratings := t.ratings, lastFlow := t.lastFlow, watches := t.watches
        carriage := t.carriage, meter := t.meter, gaugings := t.gaugings
        host := { s.host with attention := t.host.attention } })

/-- The line: its grant to the front of the queue, a pending divisor on a free line, the end of a break's low and of its
recovery, which serves the queue and so starts a queued ROUND or closes it when it finds no member, the release of a line
found idle, and a stray character. A master frame begins with the address of the port's record and the verb of its user,
with the receiver off; its characters go out as 11 bits each, back to back; at its end the receiver is on with its holding
buffer empty and the reply window is open. LINE_GRANT and PENDING_DIVISOR_APPLY as commands of their own, ends and expiries
taken whenever the line is in their phase, the wait after a reply limit, the low level that a hunting receiver counts as
the one before its first sample, and the record of the frame sent are the model's choices: notes/assumptions/8.md, 9.md,
14.md, 33.md, 38.md and 42.md. -/
def Obligations.TheLineIsGrantedAndCarriesFrames : Prop :=
  ∀ s : State, s.inReset = false →
    (∀ u rest, s.bus.holder = .free → s.bus.queue = u :: rest → u ≠ .round → exec .lineGrant s = .next
      { s with bus := { s.bus with
          holder := .user u, phase := .awaitFrame, roundTodo := [], roundPolls := [], queue := rest } }) ∧
    (∀ rest, s.bus.holder = .free → s.bus.queue = .round :: rest → roundMembers s.ports ≠ [] →
      exec .lineGrant s = .next { s with bus := { s.bus with
          holder := .user .round, phase := .awaitFrame, roundTodo := roundMembers s.ports, roundPolls := [],
          queue := rest } }) ∧
    (∀ d, s.bus.holder = .free → s.bus.pendingDivisor = some d →
      exec .pendingDivisorApply s = .next { s with bus := { s.bus with divisor := d, pendingDivisor := none } }) ∧
    (s.bus.holder = .brk → exec .breakEnd s = .next { s with bus := { s.bus with holder := .recovery } }) ∧
    (s.bus.holder = .recovery → s.bus.queue = [] → ∃ t, exec .recoveryEnd s = .next t ∧ t = { s with bus := t.bus } ∧
      t.bus.holder = .free ∧ t.bus.divisor = s.bus.pendingDivisor.getD s.bus.divisor ∧ t.bus.pendingDivisor = none) ∧
    (∀ u rest, s.bus.holder = .recovery → s.bus.queue = u :: rest → u ≠ .round →
      ∃ t, exec .recoveryEnd s = .next t ∧ t = { s with bus := t.bus } ∧ t.bus.holder = .user u ∧ t.bus.queue = rest) ∧
    (∀ rest, s.bus.holder = .recovery → s.bus.queue = .round :: rest → roundMembers s.ports ≠ [] →
      ∃ t, exec .recoveryEnd s = .next t ∧ t = { s with bus := t.bus } ∧ t.bus.holder = .user .round ∧
        t.bus.phase = .awaitFrame ∧ t.bus.roundTodo = roundMembers s.ports ∧ t.bus.roundPolls = [] ∧ t.bus.queue = rest) ∧
    (∀ (c : Instr) (rest : List LineUser), (c = .recoveryEnd ∧ s.bus.holder = .recovery) ∨
        (c = .lineGrant ∧ s.bus.holder = .free) → s.bus.queue = .round :: rest → .round ∉ rest →
      roundMembers s.ports = [] → ∃ t, exec c s = .next t ∧ closesWith s t s.ports [] ∧ t.ports = s.ports ∧
        (rest = [] → t.bus.holder = .free ∧ t.bus.queue = []) ∧
        (∀ u more, rest = u :: more → t.bus.holder = .user u ∧ t.bus.queue = more)) ∧
    (exec .lineIdleRelease s = .next { s with bus := { s.bus with awaitIdle := false } }) ∧
    (s.bus.phase = .idle ∨ s.bus.phase = .awaitFrame → exec .stray s = .next
      { s with host := { s.host with attention := withMember s.host.attention .busError } }) ∧
    (s.bus.phase = .awaitFrame → s.bus.awaitIdle = false → ∀ (p : Fin 4) (verb : Byte),
      ((s.bus.holder = .user (.ident p) ∧ verb = 0x22) ∨ (s.bus.holder = .user (.zero p) ∧ verb = 0x23) ∨
        (s.bus.holder = .user .round ∧ s.bus.roundTodo.head? = some p ∧ (s.ports.get p).state.polled = true ∧
          verb = 0x21)) →
      exec .masterFrameBegin s = .next { s with bus := { s.bus with
        phase := .sending (s.ports.get p).address, rx := { s.bus.rx with mode := .off }
        txFrame := [⟨BitVec.ofNat 8 (s.ports.get p).address, true⟩, ⟨verb, false⟩, ⟨0, false⟩] } }) ∧
    (∀ a, s.bus.phase = .sending a → exec .masterFrameEnd s = .next { s with bus := { s.bus with
        phase := .window a, rx := { mode := .hunting, lastHigh := false, holding := none, taken := [], overrun := false } } }) ∧
    (∀ a, s.bus.phase = .window a → exec .startBitAccepted s = .next { s with bus := { s.bus with
        phase := .reply a, rx := { s.bus.rx with mode := .receiving } } }) ∧
    s.bus.sentBits = s.bus.txFrame.flatMap fun c => [false, c.data.getLsbD 0, c.data.getLsbD 1, c.data.getLsbD 2,
      c.data.getLsbD 3, c.data.getLsbD 4, c.data.getLsbD 5, c.data.getLsbD 6, c.data.getLsbD 7, c.mark, true]

/-- A character read from the line's samples, each bit the level held by at least two of samples 7, 8 and 9, goes to the
holding buffer; a character that finds the buffer full is lost and noted as an overrun, on either receiver; outside a
reply it is a stray, even one whose reception began in a reply that the limit, or a break, has since ended. Sent
characters are read back as they were sent. A receiver that waits for a high sample hears no low one, a hunt begins at
the first low sample after a high one, and a false start ends in hunting with the buffer as it was; the receiver is deaf
while the part sends. The samples and the state of the holding buffer as operands, a completion that finds the reply
window still open and begins the reply, and the overrun noted on WRX while no message is begun, are the model's choices:
notes/assumptions/33.md, 12.md, 13.md and 57.md. -/
def Obligations.CharactersAreDelivered : Prop :=
  (∀ (samples : List Bool) (k : Nat) (x y z : Bool), samples[16 * k + 7]? = some x → samples[16 * k + 8]? = some y →
    samples[16 * k + 9]? = some z → bitAt samples k = decide (2 ≤ [x, y, z].count true)) ∧
  (∀ samples : List Bool, (bitAt samples 0 = true → sbusChar samples = none ∧ wrxChar samples = none) ∧
    (bitAt samples 0 = false → ∃ d : Byte, (∀ i, i < 8 → d.getLsbD i = bitAt samples (i + 1)) ∧
      sbusChar samples = some ⟨d, bitAt samples 9, !bitAt samples 10⟩ ∧
      wrxChar samples = some ⟨d, false, !bitAt samples 9⟩)) ∧
  (∀ (d : Byte) (mark stop : Bool) (rest : List Bool),
    sbusChar ((List.range 11).flatMap fun k => List.replicate 16 (if k = 0 then false else if k ≤ 8 then
      d.getLsbD (k - 1) else if k = 9 then mark else stop)) = some ⟨d, mark, !stop⟩ ∧
    wrxChar (((List.range 10).flatMap fun k => List.replicate 16 (if k = 0 then false else if k ≤ 8 then
      d.getLsbD (k - 1) else stop)) ++ rest) = some ⟨d, false, !stop⟩) ∧
  (∀ (c : TxChar) (d : Byte), sbusChar (c.bits.flatMap (List.replicate 16)) = some ⟨c.data, c.mark, false⟩ ∧
    wrxChar ((winchBits d).flatMap (List.replicate 16)) = some ⟨d, false, false⟩) ∧
  (∀ (r : Receiver) (low high samples : List Bool), (∀ x ∈ low, x = false) →
    (r.mode = .waitHigh → r.run low = [] ∧ r.heard low = r) ∧
    (r.mode = .waitHigh ∨ (r.mode = .hunting ∧ (low = [] ∨ r.lastHigh = false)) → (∀ x ∈ high, x = true) → high ≠ [] →
      samples.head? = some false → bitAt samples 0 = false → r.run (low ++ high ++ samples) = samples)) ∧
  (∀ (samples : List Bool) (c : RxChar) (s : State), s.inReset = false → sbusChar (s.bus.rx.run samples) = some c →
    (∀ a h, s.bus.phase = .reply a ∨ s.bus.phase = .window a → s.bus.rx.holding = none →
      exec (.characterCompletion .sbus samples h) s = .next { s with bus := { s.bus with
        phase := .reply a
        rx := { s.bus.rx with
          holding := some c, mode := if c.framing then .waitHigh else .hunting, lastHigh := samples.getLastD false } } }) ∧
    (∀ a x, s.bus.phase = .reply a → s.bus.rx.holding = some x →
      exec (.characterCompletion .sbus samples true) s = .next { s with bus := { s.bus with rx := { s.bus.rx with
          taken := s.bus.rx.taken ++ [x], holding := some c, mode := if c.framing then .waitHigh else .hunting,
          lastHigh := samples.getLastD false } } } ∧
      exec (.characterCompletion .sbus samples false) s = .next { s with bus := { s.bus with rx := { s.bus.rx with
          overrun := true, mode := if c.framing then .waitHigh else .hunting, lastHigh := samples.getLastD false } } }) ∧
    (∀ h, s.bus.phase = .idle ∨ s.bus.phase = .awaitFrame → ∃ t, exec (.characterCompletion .sbus samples h) s = .next t ∧
      hasMember t.host.attention .busError = true ∧ t = { s with bus := { s.bus with rx := t.bus.rx }, host := t.host })) ∧
  (∀ (samples : List Bool) (c : RxChar) (h : Bool) (s : State), s.inReset = false → s.bus.rx.mode = .receiving →
    bitAt samples 0 = false → sbusChar samples = some c →
    ∀ b, b = s.bus.freed ∨ b = s.bus.broken → ∃ t, exec (.characterCompletion .sbus samples h) { s with bus := b } = .next t ∧
      hasMember t.host.attention .busError = true) ∧
  (∀ (samples : List Bool) (h : Bool) (s : State), s.inReset = false →
    (sbusChar (s.bus.rx.run samples) = none → (∀ a, s.bus.phase ≠ .sending a) →
      exec (.characterCompletion .sbus samples h) s =
        .next { s with bus := { s.bus with rx := s.bus.rx.heard samples } }) ∧
    (∀ a, s.bus.phase = .sending a → exec (.characterCompletion .sbus samples h) s = .next s) ∧
    (wrxChar (s.carriage.rx.run samples) = none → exec (.characterCompletion .wrx samples h) s =
      .next { s with carriage := { s.carriage with rx := s.carriage.rx.heard samples } }) ∧
    (∀ r : Receiver, (r.mode = .hunting ∨ r.mode = .receiving → (r.heard samples).mode = .hunting) ∧
      (r.heard samples).holding = r.holding ∧ (r.heard samples).taken = r.taken)) ∧
  (∀ (samples : List Bool) (c : RxChar) (s : State), s.inReset = false → wrxChar (s.carriage.rx.run samples) = some c →
    (∀ h, s.carriage.rx.holding = none → exec (.characterCompletion .wrx samples h) s = .next
      { s with carriage := { s.carriage with rx := { s.carriage.rx with
          holding := some c, mode := if c.framing then .waitHigh else .hunting,
          lastHigh := samples.getLastD false } } }) ∧
    (∀ x, s.carriage.rx.holding = some x →
      (∀ y n, (s.carriage.rx.taken ++ [x]).head? = some y → winchLength y.data = some n →
        (s.carriage.rx.taken ++ [x]).length < n → exec (.characterCompletion .wrx samples true) s = .next
        { s with carriage := { s.carriage with rx := { s.carriage.rx with
          taken := s.carriage.rx.taken ++ [x], holding := some c, mode := if c.framing then .waitHigh else .hunting,
          lastHigh := samples.getLastD false } } }) ∧
      exec (.characterCompletion .wrx samples false) s = .next
        { s with carriage := { s.carriage with rx := { s.carriage.rx with
          overrun := true, mode := if c.framing then .waitHigh else .hunting, lastHigh := samples.getLastD false } } }))

/-- A POLL reply built as the manual lays it out, whatever its address, raw reading and head status, passes every check and
gives that reading; a wrong sum is garbled with SUM. -/
def Obligations.AWellFormedPollReplyIsGood : Prop :=
  ∀ (addr : Nat) (raw : BitVec 24) (h : HeadStatus) (delta : Byte) (rx : Receiver),
    rx.overrun = false → rx.holding = none →
    (let code : Byte := match h with
        | .ok => 0
        | .degraded => 1
        | .failed => 2
     let body : List Byte := [BitVec.ofNat 8 addr, 0, 4, raw.extractLsb' 0 8, raw.extractLsb' 8 8, raw.extractLsb' 16 8, code]
     let chars := body ++ [(0 - sumOf body) + delta]
     rx.taken = chars.map (fun c => ⟨c, false, false⟩) →
      (delta = 0 → replyOf .poll addr rx = .good chars ∧ readingOf chars = (raw.toInt, h)) ∧
      (delta ≠ 0 → replyOf .poll addr rx = .garbled .sum))

/-- What a round does when one of its polls has ended, from `s` to `t`: the poll joins the round's own record; the round goes
on to the next member that is still ONLINE or REMOVING, or it closes (R33, R34) and the line is free. A character then in
reception stays in reception (R28). -/
def roundGoesOn (s t : State) (rest : List (Fin 4)) (x : Poll) : Prop :=
  (∀ skipped m more, rest = skipped ++ m :: more → (∀ q ∈ skipped, (s.ports.get q).state.polled = false) →
    (s.ports.get m).state.polled = true →
    t = { s with bus := t.bus, ports := t.ports, host := t.host } ∧ t.bus.holder = .user .round ∧
    t.bus.phase = .awaitFrame ∧ t.bus.roundTodo = m :: more ∧ t.bus.roundPolls = s.bus.roundPolls ++ [x] ∧
    t.bus.queue = s.bus.queue) ∧
  ((∀ q ∈ rest, (s.ports.get q).state.polled = false) →
    closesWith s t t.ports (readingsOf t.ports (s.bus.roundPolls ++ [x])) ∧
    (s.bus.queue = [] → t.bus.holder = .free ∧ t.bus.phase = .idle ∧ t.bus.roundPolls = []) ∧
    ∀ u more, s.bus.queue = u :: more → t.bus.holder = .user u ∧ t.bus.phase = .awaitFrame ∧ t.bus.queue = more) ∧
  (s.bus.rx.mode = .receiving → t.bus.rx.mode = .receiving)

/-- How an exchange ends: a poll's result goes to the reply status and the miss count; a miss of any kind (no reply, a
garbled reply, the reply limit) counts and sets the silent field anew; a garbled reply and the reply limit set
BUS_ERROR, and the limit is garbled with OVERLONG. After each of them the round keeps the result and goes on to its next
member, or closes from end to end. That a reply limit ends the exchange at once, that a line set free is granted on at
once, and that the members who have left are skipped, and the round closed, already at the end of the poll before them,
are the model's choices (DEDUCED): notes/assumptions/14.md, 8.md and 15.md. -/
def Obligations.PollResultsAreCounted : Prop :=
  ∀ (p : Fin 4) (rest : List (Fin 4)) (a : Nat) (s : State), s.inReset = false → s.bus.holder = .user .round →
    s.bus.roundTodo = p :: rest → (s.ports.get p).state.polled = true →
    (s.bus.phase = .window a → ∃ t, exec .replyWindowClose s = .next t ∧
      t.bus.status = putAt s.bus.status p { s.bus.status.get p with lastPoll := .noReply } ∧
      (t.ports.get p).missCount = (if (s.ports.get p).missCount < 255 then (s.ports.get p).missCount + 1
        else (s.ports.get p).missCount) ∧
      (t.ports.get p).silent = decide ((s.ports.get p).missLimit ≤ (t.ports.get p).missCount) ∧
      (∀ q, q ≠ p → t.ports.get q = s.ports.get q)) ∧
    (s.bus.phase = .reply a → ∀ chars, replyOf .poll a s.bus.rx = .good chars → ∃ t, exec .replyIdleEnd s = .next t ∧
      t.bus.status = putAt s.bus.status p { s.bus.status.get p with
        lastPoll := .valid, garble := none, lastReading := some (readingOf chars), lastGood := some s.host.time } ∧
      (t.ports.get p).missCount = 0 ∧
      (t.ports.get p).silent = decide ((s.ports.get p).missLimit = 0) ∧ (∀ q, q ≠ p → t.ports.get q = s.ports.get q)) ∧
    (s.bus.phase = .reply a → ∀ c, replyOf .poll a s.bus.rx = .garbled c → ∃ t, exec .replyIdleEnd s = .next t ∧
      t.bus.status = putAt s.bus.status p { s.bus.status.get p with lastPoll := .garbled, garble := some c } ∧
      (t.ports.get p).missCount = (if (s.ports.get p).missCount < 255 then (s.ports.get p).missCount + 1
        else (s.ports.get p).missCount) ∧
      (t.ports.get p).silent = decide ((s.ports.get p).missLimit ≤ (t.ports.get p).missCount) ∧
      hasMember t.host.attention .busError = true ∧ (∀ q, q ≠ p → t.ports.get q = s.ports.get q)) ∧
    (s.bus.phase = .reply a → ∃ t, exec .replyLimit s = .next t ∧
      t.bus.status = putAt s.bus.status p { s.bus.status.get p with lastPoll := .garbled, garble := some .overlong } ∧
      (t.ports.get p).missCount = (if (s.ports.get p).missCount < 255 then (s.ports.get p).missCount + 1
        else (s.ports.get p).missCount) ∧
      (t.ports.get p).silent = decide ((s.ports.get p).missLimit ≤ (t.ports.get p).missCount) ∧
      t.bus.awaitIdle = true ∧ hasMember t.host.attention .busError = true ∧
      (∀ q, q ≠ p → t.ports.get q = s.ports.get q)) ∧
    (∀ (c : Instr) (x : Option (Int × HeadStatus)), .round ∉ s.bus.queue →
      (c = .replyWindowClose ∧ s.bus.phase = .window a ∧ x = none) ∨
        (c = .replyIdleEnd ∧ s.bus.phase = .reply a ∧
          ((∃ chars, replyOf .poll a s.bus.rx = .good chars ∧ x = some (readingOf chars)) ∨
            (∃ k, replyOf .poll a s.bus.rx = .garbled k ∧ x = none))) ∨
        (c = .replyLimit ∧ s.bus.phase = .reply a ∧ x = none) →
      ∃ t, exec c s = .next t ∧ roundGoesOn s t rest ⟨p, x⟩)

/-- An identity attempt: the expected kind brings the port ONLINE with the identity as reported, another kind faults it
with WRONG_KIND; a first miss, by an unanswered window, a garbled reply or the reply limit, places a second request and
a second miss faults the port with NO_IDENTITY. A zero exchange ends with the outcome its reply gives, NO_REPLY, or
GARBLED for a garbled reply and the reply limit. That a reply limit ends the exchange at once is the model's choice:
notes/assumptions/14.md. -/
def Obligations.IdentityAndZeroOutcomes : Prop :=
  ∀ (p : Fin 4) (a : Nat) (s : State), s.inReset = false →
    (s.bus.holder = .user (.ident p) → (s.ports.get p).state = .identifying →
      (s.bus.phase = .reply a → ∀ chars, replyOf .ident a s.bus.rx = .good chars → ∃ t, exec .replyIdleEnd s = .next t ∧
        (t.ports.get p).identity = some (identityOf chars) ∧
        (reportedKind (identityOf chars).kindCode = some (s.ports.get p).kind → (t.ports.get p).state = .online ∧
          (t.ports.get p).faultCause = (s.ports.get p).faultCause) ∧
        (reportedKind (identityOf chars).kindCode ≠ some (s.ports.get p).kind → (t.ports.get p).state = .faulted ∧
          (t.ports.get p).faultCause = some .wrongKind) ∧
        (∀ q, q ≠ p → t.ports.get q = s.ports.get q)) ∧
      (∀ (c : Instr) (fault : Option GarbleCause),
        (c = .replyWindowClose ∧ s.bus.phase = .window a ∧ fault = none) ∨
          (c = .replyIdleEnd ∧ s.bus.phase = .reply a ∧
            ∃ k, fault = some k ∧ replyOf .ident a s.bus.rx = .garbled k) ∨
          (c = .replyLimit ∧ s.bus.phase = .reply a ∧ fault = some .overlong) →
        ∃ t, exec c s = .next t ∧
          (t.ports.get p).attempts = (s.ports.get p).attempts + 1 ∧ (t.ports.get p).identity = (s.ports.get p).identity ∧
          ((s.ports.get p).attempts = 0 → (t.ports.get p).state = .identifying ∧
            (s.bus.queue = [] → t.bus.holder = .user (.ident p))) ∧
          ((s.ports.get p).attempts = 1 → (t.ports.get p).state = .faulted ∧
            (t.ports.get p).faultCause = some .noIdentity ∧ hasMember t.host.attention (.port p) = true) ∧
          (t.bus.status.get p).garble = (if fault.isSome then fault else (s.bus.status.get p).garble) ∧
          (fault.isSome = true → hasMember t.host.attention .busError = true) ∧
          (c = .replyLimit → t.bus.awaitIdle = true) ∧ (∀ q, q ≠ p → t.ports.get q = s.ports.get q))) ∧
    (s.bus.holder = .user (.zero p) →
      (∀ (c : Instr) (fault : Option GarbleCause) (o : ZeroOutcome),
        (c = .replyWindowClose ∧ s.bus.phase = .window a ∧ fault = none ∧ o = .noReply) ∨
          (c = .replyIdleEnd ∧ s.bus.phase = .reply a ∧ o = .garbled ∧
            ∃ k, fault = some k ∧ replyOf .zero a s.bus.rx = .garbled k) ∨
          (c = .replyLimit ∧ s.bus.phase = .reply a ∧ fault = some .overlong ∧ o = .garbled) →
        ∃ t, exec c s = .next t ∧ (t.bus.status.get p).zero = o ∧
          (t.bus.status.get p).garble = (if fault.isSome then fault else (s.bus.status.get p).garble) ∧
          (fault.isSome = true → hasMember t.host.attention .busError = true) ∧
          (c = .replyLimit → t.bus.awaitIdle = true) ∧ hasMember t.host.attention (.port p) = true ∧
          t.ports = s.ports) ∧
      (s.bus.phase = .reply a → ∀ chars, replyOf .zero a s.bus.rx = .good chars → ∃ t, exec .replyIdleEnd s = .next t ∧
        (t.bus.status.get p).zero = (if chars.getD 1 0 = 0 then .done else .refused) ∧
        hasMember t.host.attention (.port p) = true ∧ t.ports = s.ports))

/-! ## The stage selector -/

/-- The stage verbs: STAGE_POLICY clamps four fields and refuses a class out of range; OBSERVER_ENTRY is refused for a stage
out of range and while the clock is unset, and otherwise replaces the entry; RESELECT sets its flag; STAGE_READ changes
nothing. The whole selector in the response of STAGE_READ is laid out as the model chose: notes/assumptions/18.md. -/
def Obligations.StageVerbsWriteThePolicy : Prop :=
  ∀ s : State, s.inReset = false → s.host.ignoring = false →
    (∀ (c d : Byte) (g : Half) (h k : Byte),
      (c.toNat < 1 ∨ 4 < c.toNat → exec (.stagePolicy ⟨7, 7⟩ c d g h k) s = .next (respond 7 ⟨.badField, 0x20, .nil⟩ s)) ∧
      (1 ≤ c.toNat → c.toNat ≤ 4 → ∃ d' g' h' k' : Nat,
        d' = max 1 d.toNat ∧ g' = max 1 (min 1000 g.toNat) ∧ h' = min 240 h.toNat ∧ k' = min 6 k.toNat ∧
        exec (.stagePolicy ⟨7, 7⟩ c d g h k) s = .next (respond 7 ⟨.ok, 0x20, .policy c.toNat d' g' h' k'⟩
          { s with selector := { s.selector with
              observerClass := c.toNat, returnDelay := d', disagreementLimit := g', holdLimit := h',
              filterShift := k' } }))) ∧
    (∀ (h : Half) (t : Word),
      (h.toInt < -2000 ∨ 30000 < h.toInt →
        exec (.observerEntry ⟨7, 7⟩ h t) s = .next (respond 7 ⟨.badField, 0x22, .nil⟩ s)) ∧
      (-2000 ≤ h.toInt → h.toInt ≤ 30000 →
        (s.host.clockUnset = true → exec (.observerEntry ⟨7, 7⟩ h t) s = .next (respond 7 ⟨.wrongState, 0x22, .nil⟩ s)) ∧
        (s.host.clockUnset = false → exec (.observerEntry ⟨7, 7⟩ h t) s = .next
          (respond 7 ⟨.ok, 0x22, .observer ⟨h.toInt, t.toNat⟩
              (decide (t.toNat ≤ s.host.time ∧ s.host.time ≤ t.toNat + 1800))⟩
            { s with selector := { s.selector with observerEntry := some ⟨h.toInt, t.toNat⟩ } })))) ∧
    (exec (.reselect ⟨1, 1⟩) s = .next (respond 1 ⟨.ok, 0x23, .nil⟩
      { s with selector := { s.selector with reselect := true } })) ∧
    (exec (.stageRead ⟨1, 1⟩) s = .next (respond 1 ⟨.ok, 0x21, .selector s.selector
      (s.selector.observerEntry.any fun e => decide (e.time ≤ s.host.time ∧ s.host.time ≤ e.time + 1800))⟩ s))

/-- A candidate that ranks above every other of a list (R46). -/
def topOf (l : List Candidate) (d : Candidate) : Prop := d ∈ l ∧ ∀ e ∈ l, e ≠ d → ranksAbove d e = true

/-- A stage sample by its quality: GOOD and SUSPECT carry the stage and rate of a source, HELD the held stage with no
source and no rate, LOST nothing; its time is the close's. Without a candidate the sample is HELD up to the hold limit
from the anchor and LOST after it; with one it is GOOD, or SUSPECT when the source differs from the best other candidate
by more than the disagreement limit. The candidates are the ports whose reading is usable, converted by kind and datum
and in range, and a fresh observer entry; every port gets its disposition. A GOOD or SUSPECT close sets the held stage and
the anchor, a LOST one clears the held stage and keeps the anchor. SOURCE_CHANGED is set exactly when the sample has a source and the last source was
another. The selection settles on the best candidate when there is no source to keep or RESELECT stands, and passes to a
candidate whose lead has reached the return delay; the leads count closes without a break. The trend steps by its filter
from the last stage, clamped. -/
def Obligations.EveryCloseGivesASample : Prop :=
  ∀ (t : Nat) (ports : Vector Port 4) (recs : List ReadingRecord) (sel : Selector),
    (∀ c, c ∈ candidatesAt t ports recs sel ↔
      (∃ (p : Fin 4) (rec : ReadingRecord) (raw : Int), recs.find? (fun r => r.port == p) = some rec ∧ rec.silent = false ∧
        rec.raw = some raw ∧ rec.head ≠ some .failed ∧ -2000 ≤ c.stage ∧ c.stage ≤ 30000 ∧
        c = ⟨.port p, (ports.get p).cls, decide (rec.head = some .degraded), (match (ports.get p).kind with
            | .shaft => 0
            | .pressure => 1
            | .radar => 2), (match (ports.get p).kind with
            | .shaft | .pressure => raw + (ports.get p).datum
            | .radar => (ports.get p).datum - raw)⟩) ∨
      (∃ e, sel.observerEntry = some e ∧ e.time ≤ t ∧ t ≤ e.time + 1800 ∧
        c = ⟨.observer, sel.observerClass, false, 3, e.stage⟩)) ∧
    ((candidatesAt t ports recs sel).map (·.src)).Nodup ∧
    (∀ a b : Candidate, ranksAbove a b = true ↔ a.cls < b.cls ∨ (a.cls = b.cls ∧
      ((a.degraded = false ∧ b.degraded = true) ∨ (a.degraded = b.degraded ∧
        (a.kind < b.kind ∨ (a.kind = b.kind ∧ a.src.index < b.src.index)))))) ∧
    (∀ p : Fin 4, (closeSelector t ports recs sel).dispositions.get p =
      match recs.find? (fun r => r.port == p) with
      | none => .notRead
      | some rec => if rec.silent = true then .silent else match rec.raw with
        | none => .missed
        | some raw => if rec.head = some .failed then .failed else
          if -2000 ≤ convertedStage (ports.get p) raw ∧ convertedStage (ports.get p) raw ≤ 30000 then
            .candidate (convertedStage (ports.get p) raw)
          else .outOfRange (convertedStage (ports.get p) raw)) ∧
    ∃ x, (closeSelector t ports recs sel).lastSample = some x ∧ x.time = t ∧
      (x.quality = .good ∨ x.quality = .suspect → (closeSelector t ports recs sel).heldStage = x.stage) ∧
      (x.quality = .held → (closeSelector t ports recs sel).heldStage = sel.heldStage) ∧
      (x.quality = .lost → (closeSelector t ports recs sel).heldStage = none) ∧
      (x.quality = .held ∨ x.quality = .lost → (closeSelector t ports recs sel).anchor = sel.anchor) ∧
      (x.quality = .good ∨ x.quality = .suspect → ∃ c ∈ candidatesAt t ports recs sel,
        x.stage = some c.stage ∧ x.source = some c.src ∧ x.rise.isSome = true ∧
        (closeSelector t ports recs sel).source = some c.src ∧ (closeSelector t ports recs sel).anchor = some t) ∧
      (x.quality = .held → candidatesAt t ports recs sel = [] ∧ x.stage = sel.heldStage ∧ x.source = none ∧
        x.rise = none ∧ (closeSelector t ports recs sel).source = none) ∧
      (x.quality = .lost → candidatesAt t ports recs sel = [] ∧ x.stage = none ∧ x.source = none ∧ x.rise = none ∧
        (closeSelector t ports recs sel).primed = false ∧ (closeSelector t ports recs sel).rise = 0) ∧
      x.disagree = decide (x.quality = .suspect) ∧ (closeSelector t ports recs sel).reselect = false ∧
      (x.sourceChanged = true ↔ ∃ c o, x.source = some c ∧ sel.lastSource = some o ∧ o ≠ c) ∧
      (candidatesAt t ports recs sel = [] → (x.quality = .held ∨ x.quality = .lost) ∧
        (x.quality = .held ↔ ∃ h a, sel.heldStage = some h ∧ sel.anchor = some a ∧ (t : Int) - a ≤ sel.holdLimit * 60)) ∧
      (candidatesAt t ports recs sel ≠ [] → x.quality = .good ∨ x.quality = .suspect) ∧
      (∀ c ∈ candidatesAt t ports recs sel, (closeSelector t ports recs sel).source = some c.src →
        ((∀ d ∈ candidatesAt t ports recs sel, d.src = c.src) →
          x.quality = .good ∧ (closeSelector t ports recs sel).comparedWith = none) ∧
        (∀ d, topOf ((candidatesAt t ports recs sel).filter fun e => decide (e.src ≠ c.src)) d →
          (closeSelector t ports recs sel).comparedWith = some (d.src, d.stage) ∧
          (x.quality = .suspect ↔ (sel.disagreementLimit : Int) < (c.stage - d.stage).natAbs)) ∧
        x.rise = some (closeSelector t ports recs sel).rise ∧ (closeSelector t ports recs sel).primed = true ∧
        (closeSelector t ports recs sel).hPrev = some c.stage ∧ (closeSelector t ports recs sel).tPrev = some t ∧
        (sel.primed = false → (closeSelector t ports recs sel).rise = 0) ∧
        (∀ h0 t0 inst, sel.primed = true → sel.hPrev = some h0 → sel.tPrev = some t0 →
          inst = (if t ≤ t0 then 0 else halfAway ((c.stage - h0) * 3600) (t - t0)) →
          (closeSelector t ports recs sel).rise =
            max (-100000) (min 100000 (sel.rise + halfAway (inst - sel.rise) (2 ^ sel.filterShift))))) ∧
      (candidatesAt t ports recs sel = [] → (closeSelector t ports recs sel).source = none) ∧
      (∀ b, topOf (candidatesAt t ports recs sel) b →
        sel.reselect = true ∨ (∀ c ∈ candidatesAt t ports recs sel, sel.source ≠ some c.src) →
        (closeSelector t ports recs sel).source = some b.src) ∧
      (candidatesAt t ports recs sel ≠ [] → ∃ b, topOf (candidatesAt t ports recs sel) b) ∧
      (sel.reselect = false → ∀ c ∈ candidatesAt t ports recs sel, sel.source = some c.src →
        ((∀ d ∈ candidatesAt t ports recs sel, ranksAbove d c = true →
            saturatingSucc 255 (sel.leads.get d.src.index) < sel.returnDelay) →
          (closeSelector t ports recs sel).source = some c.src) ∧
        (∀ d, topOf ((candidatesAt t ports recs sel).filter fun e => ranksAbove e c &&
            decide (sel.returnDelay ≤ saturatingSucc 255 (sel.leads.get e.src.index))) d →
          (closeSelector t ports recs sel).source = some d.src)) ∧
      ∀ i : Fin 5,
        ((closeSelector t ports recs sel).source ≠ sel.source → (closeSelector t ports recs sel).leads.get i = 0) ∧
        ((closeSelector t ports recs sel).source = sel.source →
          ((∃ c ∈ candidatesAt t ports recs sel, ∃ d ∈ candidatesAt t ports recs sel, sel.source = some c.src ∧
              d.src = sourceAt i ∧ ranksAbove d c = true) →
            (closeSelector t ports recs sel).leads.get i =
              (if sel.leads.get i < 255 then sel.leads.get i + 1 else sel.leads.get i)) ∧
          ((∀ c ∈ candidatesAt t ports recs sel, ∀ d ∈ candidatesAt t ports recs sel, sel.source = some c.src →
              d.src = sourceAt i → ranksAbove d c = false) →
            (closeSelector t ports recs sel).leads.get i = 0))

/-! ## Ratings, shifts and discharge -/

/-- Loading a rating: RATING_BEGIN opens an EMPTY slot, RATING_POINTS appends a frame of rising points in range, and
RATING_FINISH seals a list of two or more points whose discharge never falls, with the next generation; a shorter list
fails with TOO_FEW_POINTS and a falling one with Q_DECREASING and the first point that falls. That the response of
RATING_BEGIN carries the generation counter and the slot in force before the slot record is the model's choice:
notes/assumptions/46.md. -/
def Obligations.ARatingIsLoadedAndSealed : Prop :=
  ∀ (slot : Byte) (k : Fin 3) (s : State), s.inReset = false → s.host.ignoring = false → slot.toNat = k.val →
    (∀ (effective : Word) (allowance : Half), allowance.toNat ≤ 5000 → (s.ratings.slots.get k).state = .empty →
      ∃ r : RatingSlot, r = { RatingSlot.reset with
          state := .loading, effective := effective.toNat, allowance := allowance.toNat } ∧
        exec (.ratingBegin ⟨8, 8⟩ slot effective allowance) s = .next
          (respond 8 ⟨.ok, 0x30, .rating s.ratings.nextGeneration s.ratings.inForce r 0⟩
            { s with ratings := { s.ratings with slots := putAt s.ratings.slots k r } })) ∧
    (∀ points : List PointField, 1 ≤ points.length → points.length ≤ 8 → (s.ratings.slots.get k).state = .loading →
      (∀ x ∈ points, stageOk x.stage.toInt = true ∧ x.discharge.toNat ≤ 20000000) →
      ((s.ratings.slots.get k).points.getLast?.toList ++ points.map pointOf).Pairwise (fun a b => a.stage < b.stage) →
      (s.ratings.slots.get k).points.length + points.length ≤ 48 →
      ∃ body, exec (.ratingPoints ⟨BitVec.ofNat 8 (3 + 6 * points.length), 3 + 6 * points.length⟩ slot points) s = .next
        (respond (3 + 6 * points.length) ⟨.ok, 0x31, body⟩ { s with ratings := { s.ratings with
          slots := putAt s.ratings.slots k { s.ratings.slots.get k with points := (s.ratings.slots.get k).points ++ points.map pointOf } } })) ∧
    ((s.ratings.slots.get k).state = .loading → 2 ≤ (s.ratings.slots.get k).points.length →
      (s.ratings.slots.get k).points.Pairwise (fun a b => a.discharge ≤ b.discharge) →
      exec (.ratingFinish ⟨2, 2⟩ slot) s = .next
        (respond 2 ⟨.ok, 0x32, .sealed k s.ratings.nextGeneration (s.ratings.slots.get k).effective
            (s.ratings.slots.get k).points.length⟩
          { s with ratings := { s.ratings with
              nextGeneration := if s.ratings.nextGeneration = 65535 then 1 else s.ratings.nextGeneration + 1
              slots := putAt s.ratings.slots k { s.ratings.slots.get k with
                state := .ready, generation := some s.ratings.nextGeneration, checkDetail := none } } })) ∧
    ((s.ratings.slots.get k).state = .loading → (s.ratings.slots.get k).points.length < 2 →
      exec (.ratingFinish ⟨2, 2⟩ slot) s = .next
        (respond 2 ⟨.checkFailed, 0x32, .checkDetail .tooFewPoints (s.ratings.slots.get k).points.length⟩
          { s with ratings := { s.ratings with slots := putAt s.ratings.slots k { s.ratings.slots.get k with
              checkDetail := some (.tooFewPoints, (s.ratings.slots.get k).points.length) } } })) ∧
    (∀ (l : List Point) (a b : Point) (rest : List Point), (s.ratings.slots.get k).state = .loading →
      (s.ratings.slots.get k).points = l ++ a :: b :: rest → (l ++ [a]).Pairwise (fun x y => x.discharge ≤ y.discharge) →
      b.discharge < a.discharge → exec (.ratingFinish ⟨2, 2⟩ slot) s = .next
        (respond 2 ⟨.checkFailed, 0x32, .checkDetail .qDecreasing (l.length + 1)⟩
          { s with ratings := { s.ratings with slots := putAt s.ratings.slots k { s.ratings.slots.get k with
              checkDetail := some (.qDecreasing, l.length + 1) } } }))

/-- RATING_READ changes nothing; RATING_RETIRE empties a slot, but for the slot in force while a gauging is open, and sets
RATING_SWAP only for the slot in force. -/
def Obligations.RatingsAreReadAndRetired : Prop :=
  ∀ (slot first : Byte) (k : Fin 3) (s : State), s.inReset = false → s.host.ignoring = false → slot.toNat = k.val →
    ((s.ratings.slots.get k).state ≠ .empty → first.toNat ≤ 47 →
      exec (.ratingRead ⟨3, 3⟩ slot first) s = .next (respond 3 ⟨.ok, 0x33, .rating s.ratings.nextGeneration
        s.ratings.inForce (s.ratings.slots.get k) first.toNat⟩ s)) ∧
    ((s.ratings.slots.get k).state = .empty →
      exec (.ratingRetire ⟨2, 2⟩ slot) s = .next (respond 2 ⟨.noRecord, 0x34, .slotState .empty⟩ s)) ∧
    ((s.ratings.slots.get k).state ≠ .empty → (s.ratings.slots.get k).state ≠ .inForce →
      exec (.ratingRetire ⟨2, 2⟩ slot) s = .next (respond 2 ⟨.ok, 0x34, .slotState .empty⟩
        { s with ratings := { s.ratings with slots := putAt s.ratings.slots k RatingSlot.reset } })) ∧
    ((s.ratings.slots.get k).state = .inForce →
      ((∃ n g, s.gaugings.get n = some g ∧ (g.state = .running ∨ g.state = .suspended)) →
        exec (.ratingRetire ⟨2, 2⟩ slot) s = .next (respond 2 ⟨.wrongState, 0x34, .slotState .inForce⟩ s)) ∧
      ((∀ n g, s.gaugings.get n = some g → g.state ≠ .running ∧ g.state ≠ .suspended) →
        exec (.ratingRetire ⟨2, 2⟩ slot) s = .next (respond 2 ⟨.ok, 0x34, .slotState .empty⟩
          { s with
            ratings := { s.ratings with inForce := none, slots := putAt s.ratings.slots k RatingSlot.reset }
            host := { s.host with attention := withMember s.host.attention .ratingSwap } })))

/-- SHIFT_PUT and SHIFT_REMOVE on a slot that is not EMPTY: after a put the list holds the record and every record of
another time; after a removal every record of another time; nothing but that list changes. SHIFT_READ changes nothing. -/
def Obligations.ShiftListsAreEdited : Prop :=
  ∀ (slot : Byte) (time : Word) (shift : Half) (k : Fin 3) (s : State), s.inReset = false → s.host.ignoring = false → slot.toNat = k.val →
    (s.ratings.slots.get k).state ≠ .empty →
    (-2000 ≤ shift.toInt → shift.toInt ≤ 2000 →
      ((s.ratings.slots.get k).shifts.length < 12 ∨ ∃ x ∈ (s.ratings.slots.get k).shifts, x.time = time.toNat) →
      ∃ l body, exec (.shiftPut ⟨8, 8⟩ slot time shift) s = .next (respond 8 ⟨.ok, 0x35, body⟩
          { s with ratings := { s.ratings with
            slots := putAt s.ratings.slots k { s.ratings.slots.get k with shifts := l } } }) ∧
        ∀ x, x ∈ l ↔ x = ⟨time.toNat, shift.toInt⟩ ∨ (x ∈ (s.ratings.slots.get k).shifts ∧ x.time ≠ time.toNat)) ∧
    ((∀ x ∈ (s.ratings.slots.get k).shifts, x.time ≠ time.toNat) →
      exec (.shiftRemove ⟨6, 6⟩ slot time) s = .next (respond 6 ⟨.noRecord, 0x36, .nil⟩ s) ∧
      (12 ≤ (s.ratings.slots.get k).shifts.length → -2000 ≤ shift.toInt → shift.toInt ≤ 2000 →
        exec (.shiftPut ⟨8, 8⟩ slot time shift) s = .next (respond 8 ⟨.full, 0x35, .nil⟩ s))) ∧
    ((∃ x ∈ (s.ratings.slots.get k).shifts, x.time = time.toNat) →
      ∃ l, exec (.shiftRemove ⟨6, 6⟩ slot time) s = .next (respond 6 ⟨.ok, 0x36, .shiftsHeld l.length⟩
          { s with ratings := { s.ratings with
            slots := putAt s.ratings.slots k { s.ratings.slots.get k with shifts := l } } }) ∧
        l.Sublist (s.ratings.slots.get k).shifts ∧
        ∀ x, x ∈ l ↔ x ∈ (s.ratings.slots.get k).shifts ∧ x.time ≠ time.toNat) ∧
    exec (.shiftRead ⟨2, 2⟩ slot) s = .next (respond 2 ⟨.ok, 0x37, .shifts (s.ratings.slots.get k).state
      (s.ratings.slots.get k).generation (s.ratings.slots.get k).shifts
      (effectiveShift (s.ratings.slots.get k).shifts s.host.time)⟩ s)

/-- The effective shift of a lawful list lies within ±2,000 mm at every time, is a record's own shift at its time, and does
not run on before the first record or after the last; between two neighbouring records it is the earlier one's shift and
the prorated step, the quotient to the nearest whole number and an exact half away from zero. -/
def Obligations.TheEffectiveShiftStaysInRange : Prop :=
  ∀ (l : List Shift) (t : Nat), ShiftListLaw l →
    -2000 ≤ effectiveShift l t ∧ effectiveShift l t ≤ 2000 ∧
    (l = [] → effectiveShift l t = 0) ∧
    (∀ x ∈ l, x.time = t → effectiveShift l t = x.shift) ∧
    (∀ x, l.head? = some x → t ≤ x.time → effectiveShift l t = x.shift) ∧
    (∀ x, l.getLast? = some x → x.time ≤ t → effectiveShift l t = x.shift) ∧
    (∀ (n : Int) (d : Nat), 0 < d → halfAway n d = if 0 ≤ n then (2 * n + d) / (2 * d) else -((2 * -n + d) / (2 * d))) ∧
    (∀ l1 x y l2, l = l1 ++ x :: y :: l2 → x.time < t → t < y.time →
      effectiveShift l t = x.shift + halfAway ((y.shift - x.shift) * ((t - x.time : Nat) : Int)) (y.time - x.time))

/-- The discharge of a sealed rating never exceeds 20,000,000 L/s, is 0 with BELOW under its first point, is a point's
own discharge with no flag at that point's stage, and is interpolated, half up, between two neighbouring points. Above the
last point it goes on along the last segment, half up, to the ceiling that the allowance gives, with EXTRAPOLATED, and
with CLAMPED beyond the ceiling or the greatest discharge. -/
def Obligations.TheDischargeStaysInRange : Prop :=
  ∀ (l : List Point) (allowance : Nat) (h : Int), PointListLaw l → 2 ≤ l.length →
    l.Pairwise (fun a b => a.discharge ≤ b.discharge) →
    (dischargeAt l allowance h).discharge ≤ 20000000 ∧
    (∀ x, l.head? = some x → h < x.stage → dischargeAt l allowance h = ⟨0, true, false, false⟩) ∧
    (∀ x ∈ l, x.stage = h → dischargeAt l allowance h = ⟨x.discharge, false, false, false⟩) ∧
    (∀ n d : Nat, 0 < d → 2 * d * halfUp n d ≤ 2 * n + d ∧ 2 * n + d < 2 * d * (halfUp n d + 1)) ∧
    (∀ l1 a b l2, l = l1 ++ a :: b :: l2 → a.stage < h → h < b.stage → dischargeAt l allowance h =
      ⟨a.discharge + halfUp ((b.discharge - a.discharge) * (h - a.stage).toNat) (b.stage - a.stage).toNat,
        false, false, false⟩) ∧
    (∀ l1 a z q, l = l1 ++ [a, z] → z.stage < h → q = z.discharge +
        halfUp ((z.discharge - a.discharge) * (min h (z.stage + allowance) - z.stage).toNat) (z.stage - a.stage).toNat →
      dischargeAt l allowance h =
        ⟨min q 20000000, false, true, decide (z.stage + allowance < h ∨ 20000000 < q)⟩)

/-- FLOW_READ answers with the last flow sample, and a flow sample has a discharge exactly when a rating is in force and the
stage is present. -/
def Obligations.FlowSamplesHaveADischarge : Prop :=
  (∀ s : State, s.inReset = false → s.host.ignoring = false → exec (.flowRead ⟨1, 1⟩) s = .next (respond 1 ⟨.ok, 0x40, .flow s.lastFlow⟩ s)) ∧
  (∀ (st : RatingStore) (x : StageSample),
    (flowOf st x).sample = x ∧ ((flowOf st x).discharge.isSome = true ↔ st.inForce.isSome = true ∧ x.stage.isSome = true) ∧
    ((flowOf st x).noRating = true ↔ st.inForce = none) ∧ (flowOf st x).slot = st.inForce ∧
    ∀ k h, st.inForce = some k → x.stage = some h →
      (flowOf st x).effShift = some (effectiveShift (st.slots.get k).shifts x.time) ∧
      (flowOf st x).discharge = some (dischargeAt (st.slots.get k).points (st.slots.get k).allowance
        (h + effectiveShift (st.slots.get k).shifts x.time)).discharge)

/-- At an evaluation with an eligible slot the one slot in force afterwards is an eligible or formerly in-force one with the
latest effective time, and every other contestant is superseded; with none eligible nothing changes. -/
def Obligations.TheEvaluationTakesTheLatestRating : Prop :=
  ∀ (t : Nat) (st : RatingStore),
    ((∀ k : Fin 3, ¬((st.slots.get k).state = .ready ∧ (st.slots.get k).effective ≤ t)) → evaluateStore t st = st) ∧
    ((∃ k : Fin 3, (st.slots.get k).state = .ready ∧ (st.slots.get k).effective ≤ t) →
      ∃ k : Fin 3, (evaluateStore t st).inForce = some k ∧ ((evaluateStore t st).slots.get k).state = .inForce ∧
        contests t (st.slots.get k) = true ∧
        ∀ j : Fin 3, (contests t (st.slots.get j) = false → (evaluateStore t st).slots.get j = st.slots.get j) ∧
          (contests t (st.slots.get j) = true → (st.slots.get j).effective ≤ (st.slots.get k).effective ∧
            (j ≠ k → (evaluateStore t st).slots.get j =
              { st.slots.get j with state := .superseded, supersededAt := some t })))

/-! ## Watches -/

/-- R104, R105: a raised watch at a present operand, in ACTIVE or ACKED and in EASING; and the law of the count and the
acked field, which every move and every installation keeps. -/
def Obligations.RaisedWatchesMove : Prop :=
  (∀ (w : Watch) (x : FlowSample), WatchLaw w → WatchLaw (w.take x)) ∧
  (∀ (su di : Byte) (th re : Word) (ra cl le li wi ol : Byte) (w : Watch),
    watchOf su di th re ra cl le li wi ol = some w → WatchLaw w) ∧
  ∀ (w : Watch) (x : FlowSample) (v : Int), w.subject.operand x = some v →
    (w.state = .active ∨ w.state = .acked → (w.state = .active → w.acked = false) → (w.state = .acked → w.acked = true) →
      (w.classOf v = .beyond ∨ w.classOf v = .neither →
        w.take x = { w with count := 0, lastOperand := some v, lastClass := w.classOf v }) ∧
      (w.classOf v = .quiet →
        (w.clear = 1 → w.take x =
          { w with state := .idle, count := 0, acked := false, lastOperand := some v, lastClass := .quiet }) ∧
        (1 < w.clear → w.take x = { w with
          state := .easing, count := 1, acked := decide (w.state = .acked), lastOperand := some v,
          lastClass := .quiet }))) ∧
    (w.state = .easing →
      (w.classOf v = .beyond → w.take x = { w with
        state := if w.acked then .acked else .active, count := 0, lastOperand := some v, lastClass := .beyond }) ∧
      (w.classOf v = .neither → w.take x = { w with lastOperand := some v, lastClass := .neither }) ∧
      (w.classOf v = .quiet →
        (w.count + 1 < w.clear → w.take x =
          { w with count := w.count + 1, lastOperand := some v, lastClass := .quiet }) ∧
        (w.clear ≤ w.count + 1 → w.take x =
          { w with state := .idle, count := 0, acked := false, lastOperand := some v, lastClass := .quiet })))

/-- R103: a watch in IDLE or PENDING at a present operand. -/
def Obligations.LowWatchesMove : Prop :=
  ∀ (w : Watch) (x : FlowSample) (v : Int), w.subject.operand x = some v →
    (w.state = .idle → w.count = 0) → w.state = .idle ∨ w.state = .pending → 1 ≤ w.raise →
    (w.classOf v = .neither ∨ w.classOf v = .quiet → w.take x =
      { w with state := .idle, count := 0, lastOperand := some v, lastClass := w.classOf v }) ∧
    (w.classOf v = .beyond →
      (w.count + 1 < w.raise → w.take x =
        { w with state := .pending, count := w.count + 1, lastOperand := some v, lastClass := .beyond }) ∧
      (w.raise ≤ w.count + 1 → w.take x = { w with
        state := .active, count := 0, raisedSince := some x.sample.time, lastOperand := some v, lastClass := .beyond }))

/-- R106 and R107: the loss of the operand under HOLD and under RAISE. -/
def Obligations.LossOfTheOperand : Prop :=
  ∀ (w : Watch) (x : FlowSample), w.subject.operand x = none →
    (w.onLoss = .hold → w.take x = { w with lastOperand := none, lastClass := .absent }) ∧
    (w.onLoss = .raise →
      (w.state = .idle ∨ w.state = .pending → w.take x = { w with
        state := .active, count := 0, raisedSince := some x.sample.time, lastOperand := none, lastClass := .absent }) ∧
      (w.state = .easing → w.acked = false → w.take x =
        { w with state := .active, count := 0, lastOperand := none, lastClass := .absent }) ∧
      (w.state = .active ∨ w.state = .acked ∨ (w.state = .easing ∧ w.acked = true) →
        w.take x = { w with lastOperand := none, lastClass := .absent }))

/-- The lines and the demand after a rewrite of the table: a line is driven exactly when R115 says so, and the demand is true
exactly while a withdraw watch is raised. -/
def Obligations.LinesAndDemandFollowTheWatches : Prop :=
  ∀ u : WatchUnit,
    (∀ n : Fin 8, u.settled.lines.getLsbD n.val = true ↔ ∃ k w, u.table.get k = some w ∧ w.lines.getLsbD n.val = true ∧
      (w.state = .active ∨ (w.state = .easing ∧ w.acked = false) ∨
        ((w.state = .acked ∨ (w.state = .easing ∧ w.acked = true)) ∧ u.silenceable.getLsbD n.val = false))) ∧
    (u.settled.demand = true ↔ ∃ k w, u.table.get k = some w ∧ w.withdraw = true ∧
      (w.state = .active ∨ w.state = .acked ∨ w.state = .easing))

/-- WATCH_PUT installs the watch in IDLE with its working fields new, WATCH_REMOVE empties the key, and WATCH_ACK
acknowledges a raised watch; each sets the lines and the demand anew and the key's member. WATCH_READ changes nothing,
and LINE_CONFIG only the silenceable set and the lines. A key above 23 and a configuration that fails a check are
refused with BAD_FIELD. What a refusal carries beside the rule's own words, and that LINE_CONFIG's response carries the
whole summary beside its two fields, are the model's choices: notes/assumptions/21.md and 19.md. -/
def Obligations.WatchVerbsWriteTheTable : Prop :=
  (∀ (key : Byte) (s : State), s.inReset = false → s.host.ignoring = false →
    (∀ (su di : Byte) (th re : Word) (ra cl le li wi ol : Byte),
      23 < key.toNat ∨ watchOf su di th re ra cl le li wi ol = none →
      exec (.watchPut ⟨18, 18⟩ key su di th re ra cl le li wi ol) s =
        .next (respond 18 ⟨.badField, 0x41, .watchSummary s.watches.summary⟩ s)) ∧
    (23 < key.toNat →
      exec (.watchRead ⟨2, 2⟩ key) s = .next (respond 2 ⟨.badField, 0x42, .watchSummary s.watches.summary⟩ s) ∧
      exec (.watchAck ⟨2, 2⟩ key) s = .next (respond 2 ⟨.badField, 0x43, .watchSummary s.watches.summary⟩ s) ∧
      exec (.watchRemove ⟨2, 2⟩ key) s = .next (respond 2 ⟨.badField, 0x44, .watchSummary s.watches.summary⟩ s))) ∧
  ∀ (key : Byte) (k : Fin 24) (s : State), s.inReset = false → s.host.ignoring = false → key.toNat = k.val →
    (∀ (su di : Byte) (th re : Word) (ra cl le li wi ol : Byte) (w : Watch),
      watchOf su di th re ra cl le li wi ol = some w → ∃ t,
        exec (.watchPut ⟨18, 18⟩ key su di th re ra cl le li wi ol) s = .next t ∧
        w.state = .idle ∧ w.count = 0 ∧ w.acked = false ∧ w.lastOperand = none ∧ w.lastClass = .none ∧
        w.raisedSince = none ∧ w.raise = max 1 (min 60 ra.toNat) ∧ w.clear = max 1 (min 60 cl.toNat) ∧
        t.watches = { s.watches with table := putAt s.watches.table k (some w) }.settled ∧
        t.host.buffer = some ⟨.ok, 0x41, .watch w t.watches.summary⟩ ∧
        hasMember t.host.attention (.watch k) = true ∧
        t = { s with watches := t.watches, host := t.host, carriage := t.carriage, meter := t.meter,
                     gaugings := t.gaugings }) ∧
    (∀ w, s.watches.table.get k = some w →
      (∃ t, exec (.watchRemove ⟨2, 2⟩ key) s = .next t ∧
        t.watches = { s.watches with table := putAt s.watches.table k none }.settled ∧
        t.host.buffer = some ⟨.ok, 0x44, .watchSummary t.watches.summary⟩ ∧
        hasMember t.host.attention (.watch k) = true ∧
        t = { s with watches := t.watches, host := t.host, carriage := t.carriage, meter := t.meter,
                     gaugings := t.gaugings }) ∧
      (exec (.watchRead ⟨2, 2⟩ key) s = .next (respond 2 ⟨.ok, 0x42, .watch w s.watches.summary⟩ s)) ∧
      (w.state = .idle ∨ w.state = .pending →
        exec (.watchAck ⟨2, 2⟩ key) s = .next (respond 2 ⟨.wrongState, 0x43, .watch w s.watches.summary⟩ s)) ∧
      (w.state = .acked ∨ (w.state = .easing ∧ w.acked = true) →
        exec (.watchAck ⟨2, 2⟩ key) s = .next (respond 2 ⟨.ok, 0x43, .watch w s.watches.summary⟩ s)) ∧
      (w.state = .active ∨ (w.state = .easing ∧ w.acked = false) → s.watches.demand = s.watches.demandNow →
        ∃ t v, exec (.watchAck ⟨2, 2⟩ key) s = .next t ∧
          v = { w with acked := true, state := if w.state = .active then .acked else .easing } ∧
          t.watches = { s.watches with table := putAt s.watches.table k (some v) }.settled ∧
          t.watches.demand = s.watches.demand ∧ t.host.buffer = some ⟨.ok, 0x43, .watch v t.watches.summary⟩ ∧
          hasMember t.host.attention (.watch k) = true ∧ t = { s with watches := t.watches, host := t.host })) ∧
    (s.watches.table.get k = none →
      exec (.watchRead ⟨2, 2⟩ key) s = .next (respond 2 ⟨.noRecord, 0x42, .watchSummary s.watches.summary⟩ s) ∧
      exec (.watchAck ⟨2, 2⟩ key) s = .next (respond 2 ⟨.noRecord, 0x43, .watchSummary s.watches.summary⟩ s) ∧
      exec (.watchRemove ⟨2, 2⟩ key) s = .next (respond 2 ⟨.noRecord, 0x44, .watchSummary s.watches.summary⟩ s)) ∧
    (∀ set : Byte, ∃ u, exec (.lineConfig ⟨2, 2⟩ set) s = .next
        (respond 2 ⟨.ok, 0x45, .lineConfig set u.lines u.summary⟩ { s with watches := u }) ∧
      u = { s.watches with silenceable := set, lines := u.lines } ∧
      u.lines = { s.watches with silenceable := set }.settled.lines)

/-- A rewrite of the watch table that makes the withdraw demand rise turns a carriage on the cable home, abandons an
exposure in flight and suspends the running gauging, at the same event: a traverse is halted, or taken to RAISING while
its move is still held under HOLD; a stopping traverse and a raise only change their onward step; a carriage at rest,
homing or returning does not change. The serial of a command is the model's choice: notes/assumptions/39.md. -/
def Obligations.AWithdrawRiseTurnsTheCarriageHome : Prop :=
  ∀ (u : WatchUnit) (s : State), s.watches.demand = false → u.settled.demand = true →
    (s.carriage.state = .lowering ∨ s.carriage.state = .sounding ∨ s.carriage.state = .setting ∨
        s.carriage.state = .waitingMeter →
      (putWatches u s).carriage.state = .raising ∧ (putWatches u s).carriage.onward = some .home ∧
      (putWatches u s).meter.exposing = (s.meter.exposing && s.carriage.state != .waitingMeter)) ∧
    (s.carriage.state = .raising ∨ (s.carriage.state = .traversing ∧ s.carriage.phase = .stopping) →
      (putWatches u s).carriage = { s.carriage with onward := some .home }) ∧
    (s.carriage.state = .traversing → s.carriage.phase ≠ .stopping →
      (s.carriage.pendingMove = none → (putWatches u s).carriage = { s.carriage with
        phase := .stopping, awaited := some ⟨s.carriage.nextSerial, .halt⟩, moveLeft := none
        wtx := s.carriage.wtx ++ [⟨s.carriage.nextSerial, .halt⟩], nextSerial := s.carriage.nextSerial + 1 }) ∧
      (s.carriage.pendingMove.isSome = true → s.carriage.hold = true → (putWatches u s).carriage = { s.carriage with
        state := .raising, phase := .none, onward := some .home, pendingMove := some (.hoistTo 0), awaited := none,
        moveLeft := none })) ∧
    (s.carriage.state = .unhomed ∨ s.carriage.state = .homing ∨ s.carriage.state = .parked ∨
        s.carriage.state = .returning ∨ s.carriage.state = .stopped → (putWatches u s).carriage = s.carriage) ∧
    (∀ n g, s.gaugings.get n = some g →
      ∃ h, (putWatches u s).gaugings.get n = some h ∧
        (g.state ≠ .running → h = g) ∧
        (g.state = .running → h.state = .suspended ∧ h.suspendCause = some .withdraw ∧ h.flags.withdrawn = true ∧
          h.step = .returning ∧ hasMember (putWatches u s).host.attention (.gauging n) = true))

/-! ## The cableway -/

/-- CABLEWAY_CONFIG clamps the move timeout, in every carriage state, and a timer that runs keeps its time; the new
value is used when the awaited command is next sent. CABLEWAY_READ changes nothing, and answers with the demand as it
stands at the read (DEDUCED: notes/assumptions/35.md). -/
def Obligations.TheMoveTimeoutIsClamped : Prop :=
  ∀ s : State, s.inReset = false →
    (∀ v : Half, s.host.ignoring = false → ∃ n : Nat, n = max 5 (min 600 v.toNat) ∧ exec (.cablewayConfig ⟨3, 3⟩ v) s = .next
      (respond 3 ⟨.ok, 0x50, .moveTimeout n⟩ { s with carriage := { s.carriage with moveTimeout := n } })) ∧
    (∀ o rest, s.carriage.wtx = o :: rest → ∃ t, exec .commandSent s = .next t ∧ t.carriage.moveLeft =
      if s.carriage.awaited = some o then some (s.carriage.moveTimeout * 1000) else s.carriage.moveLeft) ∧
    (s.host.ignoring = false →
      exec (.cablewayRead ⟨1, 1⟩) s = .next (respond 1 ⟨.ok, 0x53, .carriage s.carriage s.watches.demand⟩ s))

/-- CABLEWAY_HOME from UNHOMED, PARKED or a STOPPED carriage with no answer owed goes to HOMING with the stop cause and the
fault code cleared, HOME awaited or held under HOLD; it is BUSY while answers are owed and WRONG_STATE in the other
states. Serials are the model's choice: notes/assumptions/39.md. -/
def Obligations.HomingStartsFromRest : Prop :=
  ∀ s : State, s.inReset = false → s.host.ignoring = false →
    (s.carriage.state = .unhomed ∨ s.carriage.state = .parked ∨
        (s.carriage.state = .stopped ∧ s.carriage.outstanding = []) →
      ∃ t, exec (.cablewayHome ⟨1, 1⟩) s = .next t ∧ t.carriage.state = .homing ∧ t.carriage.phase = .none ∧
        t.carriage.stopCause = none ∧ t.carriage.faultCode = none ∧
        (s.carriage.hold = true → t.carriage.pendingMove = some .home ∧ t.carriage.awaited = none ∧
          t.carriage.wtx = s.carriage.wtx) ∧
        (s.carriage.hold = false → t.carriage.pendingMove = none ∧
          t.carriage.awaited = some ⟨s.carriage.nextSerial, .home⟩ ∧
          t.carriage.wtx = s.carriage.wtx ++ [⟨s.carriage.nextSerial, .home⟩]) ∧
        t.host.buffer = some ⟨.ok, 0x51, .nil⟩ ∧ hasMember t.host.attention .cableway = true ∧
        t = { s with carriage := t.carriage, host := t.host }) ∧
    (s.carriage.state = .stopped → s.carriage.outstanding ≠ [] →
      exec (.cablewayHome ⟨1, 1⟩) s = .next (respond 1 ⟨.busy, 0x51, .nil⟩ s)) ∧
    (s.carriage.state = .homing ∨ s.carriage.state.working = true →
      exec (.cablewayHome ⟨1, 1⟩) s = .next (respond 1 ⟨.wrongState, 0x51, .nil⟩ s))

/-- Stops: CABLEWAY_HALT in every state, a WINCH_FAULT in every state, on an assembler that has nothing or a faultless
beginning of it, and the expiry of a running move timer. Each takes the carriage to STOPPED with its cause, clears what was
awaited or held and abandons an exposure in flight; the halt and the timeout hand over a HALT, the fault does not and
empties the outstanding list. Each of the three, of a carriage at work, suspends the running gauging with its visit
discarded, writes the stop cause into an open one, with WINCH_FAULT at a fault and a timeout, and ends the return that any
gauging waits for. That the expiry comes at whatever time is left, that a message is a command of its own
beside its characters, that serials tell equal commands apart, that a suspended gauging keeps its current point, and the
copy of the planned method that a vertical keeps, are the model's choices: notes/assumptions/9.md, 16.md, 39.md, 27.md and
31.md. -/
def Obligations.EveryStopIsStopped : Prop :=
  ∀ s : State, s.inReset = false →
    (s.host.ignoring = false → ∃ t, exec (.cablewayHalt ⟨1, 1⟩) s = .next t ∧ t.carriage.state = .stopped ∧
      t.carriage.stopCause = some .halted ∧ t.carriage.awaited = none ∧ t.carriage.pendingMove = none ∧
      t.carriage.onward = none ∧ t.carriage.phase = .none ∧ t.carriage.moveLeft = none ∧
      t.carriage.distance = s.carriage.distance ∧ t.carriage.hoist = s.carriage.hoist ∧
      (s.carriage.state ≠ .stopped ∨ (∀ o ∈ s.carriage.outstanding, o.command ≠ .halt) →
        t.carriage.wtx = s.carriage.wtx ++ [⟨s.carriage.nextSerial, .halt⟩]) ∧
      t.host.buffer = some ⟨.ok, 0x52, .nil⟩ ∧
      (s.carriage.state = .waitingMeter → t.meter.exposing = false) ∧
      t = { s with carriage := t.carriage, host := t.host, meter := t.meter, gaugings := t.gaugings }) ∧
    (∀ cause : Byte, s.carriage.rx.clean (WinchReport.fault cause).chars → ∃ t,
      exec (.winchFault cause) s = .next t ∧ t.carriage.state = .stopped ∧ t.carriage.stopCause = some .winchFault ∧
      t.carriage.faultCode = some cause ∧ t.carriage.outstanding = [] ∧
      t.carriage.awaited = none ∧ t.carriage.pendingMove = none ∧ t.carriage.onward = none ∧
      t.carriage.moveLeft = none ∧ t.carriage.wtx = s.carriage.wtx ∧
      (s.carriage.state ≠ .stopped → hasMember t.host.attention .cableway = true) ∧
      (s.carriage.state = .waitingMeter → t.meter.exposing = false) ∧
      t = { s with carriage := t.carriage, host := t.host, meter := t.meter, gaugings := t.gaugings }) ∧
    (∀ n, s.carriage.moveLeft = some n → ∃ t, exec .moveTimerExpiry s = .next t ∧ t.carriage.state = .stopped ∧
      t.carriage.stopCause = some .timeout ∧ t.carriage.awaited = none ∧ t.carriage.moveLeft = none ∧
      t.carriage.pendingMove = none ∧ t.carriage.onward = none ∧
      (s.carriage.state = .waitingMeter → t.meter.exposing = false) ∧
      (∀ o, s.carriage.awaited = some o → o.command ≠ .halt →
        t.carriage.wtx = s.carriage.wtx ++ [⟨s.carriage.nextSerial, .halt⟩]) ∧
      (∀ o, s.carriage.awaited = some o → o.command = .halt → t.carriage.wtx = s.carriage.wtx) ∧
      t = { s with carriage := t.carriage, host := t.host, meter := t.meter, gaugings := t.gaugings }) ∧
    (∀ (c : Instr) (cause : StopCause) (flags : GaugingFlags) (n : Fin 4) (g : Gauging),
      (c = .cablewayHalt ⟨1, 1⟩ ∧ s.host.ignoring = false ∧ cause = .halted ∧ flags = g.flags) ∨
        (∃ b, c = .winchFault b ∧ s.carriage.rx.clean (WinchReport.fault b).chars ∧ cause = .winchFault ∧
          flags = { g.flags with winchFault := true }) ∨
        (c = .moveTimerExpiry ∧ s.carriage.moveLeft.isSome = true ∧ cause = .timeout ∧
          flags = { g.flags with winchFault := true }) →
      s.carriage.state.working = true → s.gaugings.get n = some g →
      ∃ t h, exec c s = .next t ∧ t.gaugings.get n = some h ∧
        (g.state = .running → hasMember t.host.attention (.gauging n) = true ∧
          h = { g with
            state := .suspended, suspendCause := some .carriageStopped, stopCause := some cause, step := .none
            flags := flags, verticals := h.verticals } ∧
          ∀ i v, g.verticals[i]? = some v →
            (g.current ≠ some i ∨ v.status ≠ .todo → h.verticals[i]? = some v) ∧
            (g.current = some i → v.status = .todo → h.verticals[i]? = some { v with
              depth := none, points := [], mean := none, flow := none, method := v.planned, nearBed := false
              downgraded := false, still := false, saturated := false })) ∧
        (g.state = .suspended → h = { g with stopCause := some cause, flags := flags, step := .none }) ∧
        (g.state ≠ .running → g.state ≠ .suspended →
          h = { g with step := if g.step = .returning then .none else g.step }))

/-- HOLD and the contacts: a HOLD assertion only changes the level; a release sends the pending move, which is then
awaited; the surface contact in LOWERING and the bed contact in SOUNDING, while paying out, hand over a HALT; a bed
contact in LOWERING stops the carriage with NO_SURFACE; elsewhere, the surface contact in SOUNDING among them, and at a
release, only the level changes. Serials are the model's choice: notes/assumptions/39.md. -/
def Obligations.HoldAndContactsActOnTheCarriage : Prop :=
  ∀ s : State, s.inReset = false →
    (∃ t, exec .holdAssertion s = .next t ∧ t.carriage = { s.carriage with hold := true } ∧
      t = { s with carriage := t.carriage, host := t.host } ∧
      (s.carriage.hold = false → hasMember t.host.attention .cableway = true)) ∧
    (∃ t, exec .holdRelease s = .next t ∧ t.carriage.hold = false ∧ t.carriage.pendingMove = none ∧
      t.carriage.state = s.carriage.state ∧ t = { s with carriage := t.carriage, host := t.host } ∧
      (∀ m, s.carriage.pendingMove = some m → t.carriage.awaited = some ⟨s.carriage.nextSerial, m⟩ ∧
        t.carriage.wtx = s.carriage.wtx ++ [⟨s.carriage.nextSerial, m⟩]) ∧
      (s.carriage.pendingMove = none → t.carriage = { s.carriage with hold := false })) ∧
    (s.carriage.state = .lowering → s.carriage.phase = .payingOut →
      (∃ t, exec .surfaceContactAssertion s = .next t ∧ t.carriage.phase = .stopping ∧
        t.carriage.state = .lowering ∧ t.carriage.surfaceContact = true ∧ t.carriage.pendingMove = none ∧
        t.carriage.awaited = some ⟨s.carriage.nextSerial, .halt⟩ ∧
        t.carriage.wtx = s.carriage.wtx ++ [⟨s.carriage.nextSerial, .halt⟩] ∧ t = { s with carriage := t.carriage }) ∧
      (∃ t, exec .bedContactAssertion s = .next t ∧ t.carriage.state = .stopped ∧ t.carriage.bedContact = true ∧
        t.carriage.stopCause = some .noSurface ∧
        t.carriage.wtx = s.carriage.wtx ++ [⟨s.carriage.nextSerial, .halt⟩])) ∧
    (s.carriage.state = .sounding → s.carriage.phase = .payingOut →
      ∃ t, exec .bedContactAssertion s = .next t ∧ t.carriage.phase = .stopping ∧ t.carriage.state = .sounding ∧
        t.carriage.bedContact = true ∧ t.carriage.awaited = some ⟨s.carriage.nextSerial, .halt⟩ ∧
        t.carriage.wtx = s.carriage.wtx ++ [⟨s.carriage.nextSerial, .halt⟩] ∧ t = { s with carriage := t.carriage }) ∧
    (s.carriage.state ≠ .lowering ∨ s.carriage.phase ≠ .payingOut →
      exec .surfaceContactAssertion s = .next { s with carriage := { s.carriage with surfaceContact := true } }) ∧
    ((s.carriage.state ≠ .lowering ∧ s.carriage.state ≠ .sounding) ∨ s.carriage.phase ≠ .payingOut →
      exec .bedContactAssertion s = .next { s with carriage := { s.carriage with bedContact := true } }) ∧
    exec (.contactRelease .surface) s = .next { s with carriage := { s.carriage with surfaceContact := false } } ∧
    exec (.contactRelease .bed) s = .next { s with carriage := { s.carriage with bedContact := false } }

/-- The messages of the winch: a POSITION in range writes the two positions and one out of range is a RANGE error; an
ARRIVED with nothing outstanding is a stray answer, one for a superseded command only removes it; a message that fails a
check writes its error, the first of FRAMING, OVERRUN, GAP, TYPE, SUM and RANGE that it fails; and in STOPPED a quiet
link drains the outstanding list. The assembler's own characters end a message at its type's length, are checked so, and
give its type, its positions and its cause; a gap ends what is not whole; characters of another message stay ahead of a
command's. The end of a command hands over to the outstanding list and starts the timer of the awaited one. Messages as
commands beside the characters held, when the assembler takes the one held, the message that an overrun before its first
character counts against, the record of what was sent and the commands' serials are the model's choices:
notes/assumptions/16.md, 12.md, 57.md, 38.md and 39.md. -/
def Obligations.WinchMessagesAreTaken : Prop :=
  (∀ c : Byte, winchLength c = if c = 0x41 then some 7 else if c = 0x42 then some 2 else if c = 0x43 then some 3 else none) ∧
  (∀ (d : BitVec 24) (h : Half) (k : Byte), ∃ x y : Byte,
    (WinchReport.position d h).chars =
      [0x41, d.extractLsb' 0 8, d.extractLsb' 8 8, d.extractLsb' 16 8, h.extractLsb' 0 8, h.extractLsb' 8 8, x] ∧
    WinchReport.arrived.chars = [0x42, 0xBE] ∧ (WinchReport.fault k).chars = [0x43, k, y] ∧
    (WinchReport.position d h).chars.foldl (· + ·) 0 = 0 ∧ (WinchReport.fault k).chars.foldl (· + ·) 0 = 0) ∧
  (∀ m : WinchMessage,
    (m.framing = true → linkErrorOf m = some .framing) ∧
    (m.framing = false → m.overrun = true → linkErrorOf m = some .overrun) ∧
    (m.framing = false → m.overrun = false → m.gap = true → linkErrorOf m = some .gap) ∧
    (m.framing = false → m.overrun = false → m.gap = false →
      (∀ c rest, m.chars = c :: rest →
        (c ≠ 0x41 → c ≠ 0x42 → c ≠ 0x43 → linkErrorOf m = some .type) ∧
        (c = 0x41 ∨ c = 0x42 ∨ c = 0x43 → m.chars.foldl (· + ·) 0 ≠ 0 → linkErrorOf m = some .sum) ∧
        (c = 0x42 ∨ c = 0x43 → m.chars.foldl (· + ·) 0 = 0 → linkErrorOf m = none)) ∧
      (∀ d0 d1 d2 h0 h1 x : Byte, m.chars = [0x41, d0, d1, d2, h0, h1, x] → m.chars.foldl (· + ·) 0 = 0 →
        linkErrorOf m = if 300000 < (d2 ++ d1 ++ d0).toNat ∨ 30000 < (h1 ++ h0).toNat then some .range else none))) ∧
  ∀ s : State, s.inReset = false →
    (∀ (d : BitVec 24) (h : Half), s.carriage.rx.clean (WinchReport.position d h).chars →
      (d.toNat ≤ 300000 → h.toNat ≤ 30000 → exec (.position d h) s = .next { s with carriage := { s.carriage with
          distance := some d.toNat, hoist := some h.toNat, rx := { s.carriage.rx with holding := none, taken := [] } } }) ∧
      (300000 < d.toNat ∨ 30000 < h.toNat → exec (.position d h) s = .next
        { s with
          carriage := { s.carriage with
            linkError := some .range, rx := { s.carriage.rx with holding := none, taken := [] } }
          host := { s.host with attention := withMember s.host.attention .cableway } })) ∧
    (s.carriage.rx.clean WinchReport.arrived.chars →
      (s.carriage.outstanding = [] → exec .arrived s = .next
        { s with
          carriage := { s.carriage with
            linkError := some .strayAnswer, rx := { s.carriage.rx with holding := none, taken := [] } }
          host := { s.host with attention := withMember s.host.attention .cableway } }) ∧
      (∀ o rest, s.carriage.outstanding = o :: rest → s.carriage.awaited ≠ some o →
        exec .arrived s = .next { s with carriage := { s.carriage with
          outstanding := rest, rx := { s.carriage.rx with holding := none, taken := [] } } })) ∧
    (∀ (m : WinchMessage) (e : LinkError), s.carriage.rx.assembled = [] → s.carriage.rx.overrun = false →
      (∀ c rest n, m.chars = c :: rest → n = (winchLength c).getD 1 →
        (m.gap = false → m.chars.length = n) ∧ (m.gap = true → m.chars.length < n)) → m.chars ≠ [] →
      linkErrorOf m = some e → exec (.winchLinkError m) s = .next
      { s with
        carriage := { s.carriage with linkError := some e }
        host := { s.host with attention := withMember s.host.attention .cableway } }) ∧
    (∀ (l : List RxChar) (y : RxChar) (n : Nat), s.carriage.rx.taken ++ s.carriage.rx.holding.toList = y :: l →
      n = (winchLength y.data).getD 1 → l.length + 1 < n → (∀ c ∈ y :: l, c.framing = false) → s.carriage.rx.overrun = false →
      exec (.winchLinkError ⟨(y :: l).map (·.data), false, false, true⟩) s = .next
        { s with
          carriage := { s.carriage with linkError := some .gap, rx := { s.carriage.rx with holding := none, taken := [] } }
          host := { s.host with attention := withMember s.host.attention .cableway } }) ∧
    (∀ (l : List RxChar) (y : RxChar), s.carriage.rx.holding = none → s.carriage.rx.taken = y :: l → y.data = 0x41 →
      l.length + 3 < 7 → exec .arrived s = .next { s with carriage := { s.carriage with rx := { s.carriage.rx with
        taken := (y :: l) ++ [⟨0x42, false, false⟩, ⟨0xBE, false, false⟩] } } }) ∧
    (∀ (samples : List Bool) (c x y : RxChar) (l : List RxChar) (chars : List Byte) (rx : Receiver),
      wrxChar (s.carriage.rx.run samples) = some c → s.carriage.rx.holding = some x → s.carriage.rx.taken ++ [x] = y :: l →
      l.length + 1 = (winchLength y.data).getD 1 → chars = (y :: l).map (·.data) →
      rx = { s.carriage.rx with
        holding := some c, taken := [], overrun := false, mode := if c.framing then .waitHigh else .hunting
        lastHigh := samples.getLastD false } →
      (∀ e, linkErrorOf ⟨chars, (y :: l).any (·.framing), s.carriage.rx.overrun, false⟩ = some e →
        exec (.characterCompletion .wrx samples true) s = .next
        { s with
          carriage := { s.carriage with linkError := some e, rx := rx }
          host := { s.host with attention := withMember s.host.attention .cableway } }) ∧
      (linkErrorOf ⟨chars, (y :: l).any (·.framing), s.carriage.rx.overrun, false⟩ = none →
        (∀ d0 d1 d2 h0 h1 k : Byte, chars = [0x41, d0, d1, d2, h0, h1, k] →
          exec (.characterCompletion .wrx samples true) s = .next { s with carriage := { s.carriage with
            distance := some (d2 ++ d1 ++ d0).toNat, hoist := some (h1 ++ h0).toNat, rx := rx } }) ∧
        (∀ o rest, y.data = 0x42 → s.carriage.outstanding = o :: rest → s.carriage.awaited ≠ some o →
          exec (.characterCompletion .wrx samples true) s = .next { s with carriage := { s.carriage with
            outstanding := rest, rx := rx } }) ∧
        (∀ k j : Byte, chars = [0x43, k, j] → ∃ t, exec (.characterCompletion .wrx samples true) s = .next t ∧
          t.carriage.state = .stopped ∧ t.carriage.stopCause = some .winchFault ∧ t.carriage.faultCode = some k ∧
          t.carriage.outstanding = [] ∧ t.carriage.rx = rx))) ∧
    (∀ o rest, s.carriage.wtx = o :: rest → exec .commandSent s = .next { s with carriage := { s.carriage with
        wtx := rest, wtxSent := o.command.chars, outstanding := s.carriage.outstanding ++ [o],
        moveLeft := if s.carriage.awaited = some o then some (s.carriage.moveTimeout * 1000)
          else s.carriage.moveLeft } }) ∧
    (s.carriage.state = .stopped →
      exec .linkQuietDrain s = .next { s with carriage := { s.carriage with outstanding := [] } }) ∧
    (s.carriage.state ≠ .stopped → exec .linkQuietDrain s = .next s)

/-- One gauging is in RUNNING, the one in slot `n` (R157). -/
def runs (s : State) (n : Fin 4) (g : Gauging) : Prop :=
  s.gaugings.get n = some g ∧ g.state = .running ∧ (∀ v ∈ g.verticals, v.distance ≤ 300000) ∧
    ∀ m h, s.gaugings.get m = some h → h.state = .running → m = n

/-- The point depths of a vertical sounded at its depth, in the order taken (R160). -/
def pointDepthsOf (v : Vertical) (offset : Nat) : List Nat :=
  match v.method with
  | .surface => [100]
  | .sixTenths => [if v.nearBed then v.depth.getD 0 - offset else halfUp (v.depth.getD 0 * 6) 10]
  | .twoPoint => [halfUp (v.depth.getD 0 * 2) 10, halfUp (v.depth.getD 0 * 8) 10]
  | .threePoint =>
    [halfUp (v.depth.getD 0 * 2) 10, halfUp (v.depth.getD 0 * 6) 10, halfUp (v.depth.getD 0 * 8) 10]

/-- The vertical at `j` is the next to visit after the one at `i`: TODO, and after it in the direction order with no TODO one
between (R163). -/
def comesNext (g : Gauging) (i j : Nat) : Prop :=
  g.todoAt j = true ∧ match g.direction with
    | .fromStart => i < j ∧ ∀ k, i < k → k < j → g.todoAt k = false
    | .fromEnd => j < i ∧ ∀ k, j < k → k < i → g.todoAt k = false

/-- What follows a vertical finished at index `i`, `g` holding it so, from `s` to `t` (R163, R169): the latest stage is added;
the carriage is sent to the next vertical to visit, or the gauging is COMPLETE and the carriage called home. -/
def goesOn (s t : State) (n : Fin 4) (g : Gauging) (i : Nat) : Prop :=
  hasMember t.host.attention (.gauging n) = true ∧ t.carriage.state = .raising ∧
  ∃ h, (h = match g.latest with
      | some (some x, _) => { g with stageSum := g.stageSum + x, stageCount := g.stageCount + 1 }
      | _ => g) ∧
    (∀ j v, comesNext h i j → h.verticals[j]? = some v → t.carriage.onward = some (.distance v.distance) ∧
      t.gaugings = putAt s.gaugings n (some { h with current := some j, point := none, step := .sounding })) ∧
    ((∀ j, ¬comesNext h i j) → t.carriage.onward = some .home ∧
      t.gaugings = putAt s.gaugings n (some (h.completed s.host.time s.ratings)))

/-- The answer of the awaited command, by carriage state: homing and the return end PARKED at 0 and 0; a stopped
traverse and a raise go on home; a raise toward a distance goes on to it; a setting reaches the meter's point; a full
pay-out stops. In a running gauging a sounding decides by its depth: an edge is DONE and a vertical too shallow is
SKIPPED, and the gauging goes on; another takes its method, downgraded or near the bed where the offset asks it, and
sets to its first point. A point reached starts an exposure, or suspends the gauging with METER_REFUSED and its
unfinished vertical anew when the meter is busy or has no rating. That a message is a command of its own beside its
characters, and the copy of the planned method that a vertical keeps, are the model's choices: notes/assumptions/16.md and
31.md. -/
def Obligations.TheAwaitedAnswerMovesTheCarriage : Prop :=
  ∀ (s : State) (o : Order) (rest : List Order), s.inReset = false → s.carriage.rx.clean WinchReport.arrived.chars →
    s.carriage.outstanding = o :: rest →
    s.carriage.awaited = some o → ∃ t, exec .arrived s = .next t ∧ t.carriage.outstanding = rest ∧
      t = { s with carriage := t.carriage, host := t.host, meter := t.meter, gaugings := t.gaugings } ∧
      (s.carriage.state = .homing ∨ s.carriage.state = .returning → t.carriage.state = .parked ∧
        t.carriage.distance = some 0 ∧ t.carriage.hoist = some 0 ∧ t.carriage.awaited = none ∧
        t.carriage.moveLeft = none) ∧
      (s.carriage.state = .traversing → s.carriage.phase = .stopping →
        t.carriage.state = .raising ∧ t.carriage.onward = some .home) ∧
      (s.carriage.state = .traversing → s.carriage.phase = .moving → s.carriage.surfaceContact = false →
        t.carriage.state = .lowering ∧ t.carriage.phase = .payingOut ∧ t.carriage.surfaceHoist = none ∧
        t.carriage.bedHoist = none ∧ t.carriage.soundedDepth = none) ∧
      (s.carriage.state = .lowering → s.carriage.phase = .stopping → s.carriage.bedContact = false →
        t.carriage.state = .sounding ∧ t.carriage.phase = .payingOut ∧ t.carriage.surfaceHoist = s.carriage.hoist) ∧
      (s.carriage.state = .lowering → s.carriage.phase = .payingOut →
        t.carriage.state = .stopped ∧ t.carriage.stopCause = some .noSurface) ∧
      (s.carriage.state = .sounding → s.carriage.phase = .payingOut →
        t.carriage.state = .stopped ∧ t.carriage.stopCause = some .noBed) ∧
      (s.carriage.state = .sounding → s.carriage.phase = .stopping → t.carriage.bedHoist = s.carriage.hoist ∧
        t.carriage.soundedDepth = some (s.carriage.hoist.getD 0 - s.carriage.surfaceHoist.getD 0)) ∧
      (s.carriage.state = .raising → ∀ d, s.carriage.onward = some (.distance d) →
        t.carriage.state = .traversing ∧ t.carriage.phase = .moving ∧ t.carriage.target =
          (if s.carriage.hold then s.carriage.target else some (.distance d))) ∧
      (s.carriage.state = .raising → s.carriage.onward = some .home → t.carriage.state = .returning) ∧
      (s.carriage.state = .setting → (∀ n g, s.gaugings.get n = some g → g.state ≠ .running) →
        t.carriage.state = .waitingMeter ∧ t.carriage.awaited = none) ∧
      (∀ (n : Fin 4) (g : Gauging) (i : Nat) (v : Vertical), runs s n g → s.watches.demand = false →
        g.current = some i → g.verticals[i]? = some v →
        (s.carriage.state = .sounding → s.carriage.phase = .stopping → g.step = .sounding →
          ∀ u b d, s.carriage.surfaceHoist = some u → s.carriage.hoist = some b → d = b - u →
          (v.edge = true →
            goesOn s t n { g with verticals := g.verticals.set i { v with depth := some d, status := .done } } i) ∧
          (v.edge = false → d < g.offset + 100 → goesOn s t n
            { g with verticals := g.verticals.set i { v with depth := some d, status := .skipped, flow := some 0 } } i) ∧
          (v.edge = false → v.status = .todo → g.offset + 100 ≤ d → ∃ w, t.gaugings = putAt s.gaugings n
              (some { g with verticals := g.verticals.set i w, point := some 0, step := .setting }) ∧
            w = { v with depth := some d, method := w.method, downgraded := w.downgraded, nearBed := w.nearBed } ∧
            ((v.method = .twoPoint ∨ v.method = .threePoint) ∧ d - g.offset < halfUp (d * 8) 10 →
              w.method = .sixTenths ∧ w.downgraded = true) ∧
            (¬((v.method = .twoPoint ∨ v.method = .threePoint) ∧ d - g.offset < halfUp (d * 8) 10) →
              w.method = v.method ∧ w.downgraded = v.downgraded) ∧
            (w.method = .sixTenths → d - g.offset < halfUp (d * 6) 10 → w.nearBed = true) ∧
            (w.method ≠ .sixTenths ∨ halfUp (d * 6) 10 ≤ d - g.offset → w.nearBed = v.nearBed) ∧
            t.carriage.state = .setting ∧ (s.carriage.hold = false → t.carriage.awaited.map (·.command) =
              some (.hoistTo (min (u + (pointDepthsOf w g.offset).headD 0 + g.offset) b))))) ∧
        (s.carriage.state = .setting → g.step = .setting →
          (s.meter.exposing = false → s.meter.rating.isSome = true → t.carriage.state = .waitingMeter ∧
            t.gaugings = putAt s.gaugings n (some { g with step := .exposing }) ∧
            t.meter = { s.meter with
              exposing := true, count := 0, saturated := false, taken := some s.meter.exposureTime
              exposureLeft := some (s.meter.exposureTime * 1000) }) ∧
          (s.meter.exposing = true ∨ s.meter.rating = none → t.carriage.state = .raising ∧
            t.carriage.onward = some .home ∧ hasMember t.host.attention (.gauging n) = true ∧
            ∃ h, t.gaugings = putAt s.gaugings n (some h) ∧ h.state = .suspended ∧
              h.suspendCause = some .meterRefused ∧ h.step = .returning ∧
              (v.status = .todo → h.verticals = g.verticals.set i { v with
                depth := none, points := [], mean := none, flow := none, method := v.planned, nearBed := false
                downgraded := false, still := false, saturated := false }))))

/-! ## The meter -/

/-- Count events and the fall of the input: pulses seen wraps at 65,536; the count rises only in an exposure, and stays at
65,535 with the flag set. METER_CONFIG writes the clamped exposure time and the rating when no exposure runs. -/
def Obligations.TheMeterCounts : Prop :=
  ∀ s : State, s.inReset = false →
    (s.meter.exposing = false → exec .countEvent s = .next
      { s with meter := { s.meter with inputHigh := true, pulses := (s.meter.pulses + 1) % 65536 } }) ∧
    (s.meter.exposing = true → s.meter.count < 65535 → exec .countEvent s = .next
      { s with meter := { s.meter with
          inputHigh := true, pulses := (s.meter.pulses + 1) % 65536, count := s.meter.count + 1 } }) ∧
    (s.meter.exposing = true → s.meter.count = 65535 → exec .countEvent s = .next
      { s with meter := { s.meter with
          inputHigh := true, pulses := (s.meter.pulses + 1) % 65536, saturated := true } }) ∧
    exec .meterInputFall s = .next { s with meter := { s.meter with inputHigh := false } } ∧
    (∀ (e p a1 : Byte) (b1 : Half) (nb : Word) (a2 : Byte) (b2 : Half), s.host.ignoring = false → s.meter.exposing = false →
      1 ≤ p.toNat → p.toNat ≤ 10 → a1.toNat ≤ 100 → 1 ≤ b1.toNat → b1.toNat ≤ 2000 → nb.toNat ≤ 100000 →
      a2.toNat ≤ 100 → 1 ≤ b2.toNat → b2.toNat ≤ 2000 → ∃ m,
        exec (.meterConfig ⟨13, 13⟩ e p a1 b1 nb a2 b2) s = .next
          (respond 13 ⟨.ok, 0x54, .meter m none⟩ { s with meter := m }) ∧
        m = { s.meter with
          exposureTime := max 20 (min 120 e.toNat)
          rating := some ⟨p.toNat, a1.toNat, b1.toNat, nb.toNat, a2.toNat, b2.toNat⟩ })

/-- The revolution rate is 0 exactly for a count of 0, within the counter's ranges, and is the half-up quotient. -/
def Obligations.TheRevolutionRateIsHalfUp : Prop :=
  ∀ (count p taken : Nat), 1 ≤ p → p ≤ 10 → 20 ≤ taken → taken ≤ 120 → count ≤ 65535 →
    (∃ r, 2 * (count * 1000000) + p * (taken * 1000) = 2 * (p * (taken * 1000)) * revolutionRate count p taken + r ∧
      r < 2 * (p * (taken * 1000))) ∧
    (revolutionRate count p taken = 0 ↔ count = 0)

/-- The expiry of the exposure timer stores the point result of the count, the rating and the time taken, and returns
the counter to IDLE; the velocity is 0 with STILL for a count of 0 and at most 10,000 mm/s. In a running gauging the
point joins its vertical, and the meter is set to the next point or, after the last, the vertical is DONE with the mean
velocity of its method and its flow, and the gauging goes on. That the expiry comes at whatever time is left is the
model's choice: notes/assumptions/9.md. -/
def Obligations.AnExposureEndsInAPointResult : Prop :=
  ∀ (s : State) (r : MeterRating) (n : Nat), s.inReset = false → s.meter.exposing = true → s.meter.rating = some r →
    s.meter.taken = some n → ∃ t x, exec .exposureExpiry s = .next t ∧
      t.meter = { s.meter with lastResult := some x, lastOutcome := .done, exposing := false, exposureLeft := none } ∧
      x.count = s.meter.count ∧ x.taken = n ∧ x.countSaturated = s.meter.saturated ∧ x.velocity ≤ 10000 ∧
      x.rate = revolutionRate s.meter.count r.p n ∧
      (s.meter.count = 0 → x.velocity = 0 ∧ x.still = true ∧ x.segment = none) ∧
      (s.meter.count ≠ 0 → x.still = false ∧ x.segment = some (if x.rate < r.nb then 1 else 2) ∧
        x.velocity = min 10000 (if x.rate < r.nb then r.a1 + halfUp (r.b1 * x.rate) 1000
          else r.a2 + halfUp (r.b2 * x.rate) 1000)) ∧
      t = { s with meter := t.meter, carriage := t.carriage, host := t.host, gaugings := t.gaugings } ∧
      ∀ (m : Fin 4) (g : Gauging) (i k : Nat) (v w : Vertical), runs s m g → s.watches.demand = false →
        s.carriage.state = .waitingMeter → g.step = .exposing → g.current = some i → g.verticals[i]? = some v →
        g.point = some k →
        w = { v with
          points := v.points ++ [((pointDepthsOf v g.offset).getD k 0, x.velocity)], still := v.still || x.still
          saturated := v.saturated || x.countSaturated || x.velocityLimited } →
        (k + 1 < (pointDepthsOf v g.offset).length → t.carriage.state = .setting ∧ t.gaugings = putAt s.gaugings m
          (some { g with verticals := g.verticals.set i w, point := some (k + 1), step := .setting })) ∧
        ((pointDepthsOf v g.offset).length ≤ k + 1 → ∃ mean,
          goesOn s t m { g with verticals := g.verticals.set i { w with
            status := .done, mean := some mean, flow := some (mean * v.depth.getD 0 * v.span) } } i ∧
          (∀ a, v.method = .sixTenths → w.points.map (·.2) = [a] → mean = a) ∧
          (∀ a, v.method = .surface → w.points.map (·.2) = [a] → mean = halfUp (a * v.surfaceCoeff) 1000) ∧
          (∀ a b, v.method = .twoPoint → w.points.map (·.2) = [a, b] → mean = halfUp (a + b) 2) ∧
          (∀ a b c, v.method = .threePoint → w.points.map (·.2) = [a, b, c] → mean = halfUp (a + 2 * b + c) 4))

/-! ## Gaugings -/

/-- Planning: GAUGING_PLAN creates a PLANNED record in an empty slot, GAUGING_VERTICALS appends to a PLANNED one,
GAUGING_READ changes nothing and GAUGING_RETIRE frees a slot that is not open. What the header in GAUGING_PLAN's response
is stands as the model's choice: notes/assumptions/58.md. -/
def Obligations.GaugingsArePlannedReadAndRetired : Prop :=
  ∀ (slot : Byte) (n : Fin 4) (s : State), s.inReset = false → s.host.ignoring = false → slot.toNat = n.val →
    (∀ (di me : Byte) (offset unsteady : Half) (d : GaugingDirection) (m : Method), gaugingDirectionOf di = some d →
      methodOf me = some m → offset.toNat ≤ 2000 → s.gaugings.get n = none → ∃ g : Gauging,
        exec (.gaugingPlan ⟨8, 8⟩ slot di me offset unsteady) s = .next (respond 8 ⟨.ok, 0x60, .gaugingHeader g⟩
          { s with gaugings := putAt s.gaugings n (some g) }) ∧
        g.state = .planned ∧ g.direction = d ∧ g.method = m ∧ g.offset = offset.toNat ∧
        g.unsteadyLimit = max 1 (min 1000 unsteady.toNat) ∧ g.verticals = [] ∧ g.step = .none ∧ g.adopted = false) ∧
    (∀ (l : List VerticalField) (g : Gauging) (vs : List Vertical), 1 ≤ l.length → l.length ≤ 4 →
      s.gaugings.get n = some g → g.state = .planned →
      verticalsOf g.method (g.verticals.getLast?.map (·.distance)) 0 l = .ok vs → g.verticals.length + vs.length ≤ 40 →
      exec (.gaugingVerticals ⟨BitVec.ofNat 8 (3 + 12 * l.length), 3 + 12 * l.length⟩ slot l) s = .next
        (respond (3 + 12 * l.length) ⟨.ok, 0x61, .verticalsTaken (g.verticals ++ vs).length (40 - (g.verticals ++ vs).length)⟩
          { s with gaugings := putAt s.gaugings n (some { g with verticals := g.verticals ++ vs }) })) ∧
    (∀ (first : Byte) (g : Gauging), first.toNat ≤ 39 → s.gaugings.get n = some g →
      exec (.gaugingRead ⟨3, 3⟩ slot first) s = .next (respond 3 ⟨.ok, 0x65, .gauging g first.toNat⟩ s)) ∧
    (∀ g : Gauging, s.gaugings.get n = some g →
      (g.state = .running ∨ g.state = .suspended →
        exec (.gaugingRetire ⟨2, 2⟩ slot) s = .next (respond 2 ⟨.wrongState, 0x67, .nil⟩ s)) ∧
      (g.state ≠ .running → g.state ≠ .suspended →
        exec (.gaugingRetire ⟨2, 2⟩ slot) s = .next (respond 2 ⟨.ok, 0x67, .nil⟩
          { s with gaugings := putAt s.gaugings n none }))) ∧
    (s.gaugings.get n = none →
      exec (.gaugingRetire ⟨2, 2⟩ slot) s = .next (respond 2 ⟨.noRecord, 0x67, .nil⟩ s))

/-- The vertical at `i` is the first to visit: TODO, with no TODO one before it in the direction order (R158, R167). -/
def firstToVisit (g : Gauging) (i : Nat) : Prop :=
  g.todoAt i = true ∧ match g.direction with
    | .fromStart => ∀ k, k < i → g.todoAt k = false
    | .fromEnd => ∀ k, i < k → g.todoAt k = false

/-- The carriage sets out from `s` to `t` toward the first vertical of `h` to visit, which is current in it (R132, R158,
R167): TRAVERSE_TO its distance is awaited, or held under HOLD. -/
def setsOut (s t : State) (h : Gauging) : Prop :=
  ∃ i v, h.current = some i ∧ h.verticals[i]? = some v ∧ firstToVisit h i ∧ h.point = none ∧ h.step = .sounding ∧
    t.carriage.state = .traversing ∧ t.carriage.phase = .moving ∧
    (s.carriage.hold = false → t.carriage.awaited = some ⟨s.carriage.nextSerial, .traverseTo v.distance⟩ ∧
      t.carriage.wtx = s.carriage.wtx ++ [⟨s.carriage.nextSerial, .traverseTo v.distance⟩] ∧
      t.carriage.pendingMove = none) ∧
    (s.carriage.hold = true → t.carriage.pendingMove = some (.traverseTo v.distance) ∧ t.carriage.awaited = none ∧
      t.carriage.wtx = s.carriage.wtx)

/-- The return sequence entered from each working state, from `s` to `t` (R135): a traverse is halted, or its held move is
given up and the weight raised; lowering, sounding, setting and waiting at a point raise the weight; a stopping traverse
and a raise go on, then home. -/
def returnsHome (s t : State) : Prop :=
  (s.carriage.state = .traversing → s.carriage.phase ≠ .stopping → s.carriage.pendingMove = none →
    t.carriage.state = .traversing ∧ t.carriage.phase = .stopping ∧
    t.carriage.awaited = some ⟨s.carriage.nextSerial, .halt⟩ ∧
    t.carriage.wtx = s.carriage.wtx ++ [⟨s.carriage.nextSerial, .halt⟩]) ∧
  (s.carriage.state = .raising ∨ (s.carriage.state = .traversing ∧ s.carriage.phase = .stopping) →
    t.carriage = { s.carriage with onward := some .home }) ∧
  (s.carriage.state = .lowering ∨ s.carriage.state = .sounding ∨ s.carriage.state = .setting ∨
      s.carriage.state = .waitingMeter ∨ (s.carriage.state = .traversing ∧ s.carriage.phase ≠ .stopping ∧
        s.carriage.pendingMove.isSome = true) →
    t.carriage.state = .raising ∧ t.carriage.onward = some .home ∧
    (s.carriage.hold = false → t.carriage.awaited = some ⟨s.carriage.nextSerial, .hoistTo 0⟩ ∧
      t.carriage.wtx = s.carriage.wtx ++ [⟨s.carriage.nextSerial, .hoistTo 0⟩]) ∧
    (s.carriage.hold = true → t.carriage.pendingMove = some (.hoistTo 0) ∧ t.carriage.awaited = none)) ∧
  (s.carriage.state = .returning ∨ s.carriage.state.working = false → t.carriage = s.carriage)

/-- GAUGING_ABORT gives up an open gauging at its event, with its current visit discarded, calling the carriage home from
every state in which it works on the cable, and is refused otherwise. GAUGING_START sets the spans, makes the water's-edge
verticals DONE, takes the stage from the last flow sample and clears the sums; it and GAUGING_RESUME put the gauging in
RUNNING with its first TODO vertical in the direction order current and send the carriage to its distance; with the
carriage elsewhere they are refused with BUSY, and under a withdraw demand with WRONG_STATE. An open gauging follows the
flow samples: the latest and the worst, the stage at its start, and the flags SOURCE_CHANGED and UNSTEADY. The bodies of
refusals, what the header in GAUGING_START's response is, the serials of commands, the copy of the planned method that a
vertical keeps, and that the current point becomes absent at a resume (DEDUCED, for R167 is silent), are the model's
choices: notes/assumptions/21.md, 58.md, 39.md, 31.md and 27.md. -/
def Obligations.AGaugingStartsResumesAndIsGivenUp : Prop :=
  ∀ (slot : Byte) (n : Fin 4) (g : Gauging) (s : State), s.inReset = false → s.host.ignoring = false → slot.toNat = n.val →
    s.gaugings.get n = some g →
    (∀ x : StageSample, ∃ h q, (gaugingTakeFlow x s).gaugings.get n = some h ∧
      (g.state ≠ .running → g.state ≠ .suspended → h = g) ∧
      (g.state = .running ∨ g.state = .suspended → h = { g with
          latest := some (x.stage, x.quality), worst := some q
          stageAtStart := if g.stageAtStart.isSome then g.stageAtStart else x.stage
          flags := { g.flags with
            sourceChanged := g.flags.sourceChanged || x.sourceChanged, unsteady := h.flags.unsteady } } ∧
        (g.worst = none → q = x.quality) ∧
        (∀ w, g.worst = some w → q = if w.ctorIdx < x.quality.ctorIdx then x.quality else w) ∧
        (h.flags.unsteady = true ↔ g.flags.unsteady = true ∨ ∃ a b, h.stageAtStart = some a ∧ x.stage = some b ∧
          (g.unsteadyLimit : Int) < (a - b).natAbs) ∧
        (h.flags.unsteady ≠ g.flags.unsteady ∨ h.flags.sourceChanged ≠ g.flags.sourceChanged →
          hasMember (gaugingTakeFlow x s).host.attention (.gauging n) = true))) ∧
    (g.state = .planned → 3 ≤ g.verticals.length → (∀ i v, g.verticals[i]? = some v → v.status = .todo ∧
        v.distance ≤ 300000 ∧ (v.edge = true → i = 0 ∨ i + 1 = g.verticals.length)) →
      (∀ j h, s.gaugings.get j = some h → h.state ≠ .running ∧ h.state ≠ .suspended) →
      (s.carriage.state ≠ .parked → exec (.gaugingStart ⟨2, 2⟩ slot) s = .next (respond 2 ⟨.busy, 0x62, .nil⟩ s)) ∧
      (s.carriage.state = .parked → s.watches.demand = true →
        exec (.gaugingStart ⟨2, 2⟩ slot) s = .next (respond 2 ⟨.wrongState, 0x62, .nil⟩ s)) ∧
      (s.carriage.state = .parked → s.watches.demand = false → ∃ t h, exec (.gaugingStart ⟨2, 2⟩ slot) s = .next t ∧
        t.gaugings = putAt s.gaugings n (some h) ∧ setsOut s t h ∧
        h = { g with
          state := .running, startTime := some s.host.time, stageSum := 0, stageCount := 0, flags := .clear
          suspendCause := none, stopCause := none, results := .absent
          stageAtStart := s.lastFlow.bind fun x => x.sample.stage
          latest := s.lastFlow.map fun x => (x.sample.stage, x.sample.quality)
          worst := s.lastFlow.map fun x => x.sample.quality
          verticals := h.verticals, current := h.current, point := h.point, step := h.step } ∧
        h.verticals.length = g.verticals.length ∧
        (∀ (d : Nat → Nat) (i : Nat) (v : Vertical) (span : Nat),
          (∀ k x, g.verticals[k]? = some x → d k = x.distance) → g.verticals[i]? = some v →
          span = (if i = 0 then d 1 - d 0 else if i + 1 = g.verticals.length then d i - d (i - 1)
            else d (i + 1) - d (i - 1)) →
          h.verticals[i]? = some (if v.edge = true ∧ v.plannedDepth = some 0 then
            { v with span := span, status := .done, depth := some 0 } else { v with span := span })) ∧
        t.host.buffer = some ⟨.ok, 0x62, .gaugingHeader h⟩ ∧ hasMember t.host.attention (.gauging n) = true ∧
        t = { s with gaugings := t.gaugings, carriage := t.carriage, host := t.host })) ∧
    (g.state = .suspended → (∃ v ∈ g.verticals, v.status = .todo) → (∀ v ∈ g.verticals, v.distance ≤ 300000) →
      (s.carriage.state ≠ .parked → exec (.gaugingResume ⟨2, 2⟩ slot) s = .next (respond 2 ⟨.busy, 0x63, .nil⟩ s)) ∧
      (s.carriage.state = .parked → s.watches.demand = true →
        exec (.gaugingResume ⟨2, 2⟩ slot) s = .next (respond 2 ⟨.wrongState, 0x63, .nil⟩ s)) ∧
      (s.carriage.state = .parked → s.watches.demand = false → ∃ t h, exec (.gaugingResume ⟨2, 2⟩ slot) s = .next t ∧
        t.gaugings = putAt s.gaugings n (some h) ∧ setsOut s t h ∧
        h = { g with
          state := .running, suspendCause := none, current := h.current, point := h.point, step := h.step } ∧
        t.host.buffer = some ⟨.ok, 0x63, .nil⟩ ∧ hasMember t.host.attention (.gauging n) = true ∧
        t = { s with gaugings := t.gaugings, carriage := t.carriage, host := t.host })) ∧
    (g.state ≠ .running → g.state ≠ .suspended →
      exec (.gaugingAbort ⟨2, 2⟩ slot) s = .next (respond 2 ⟨.wrongState, 0x64, .nil⟩ s)) ∧
    (g.state = .running ∨ g.state = .suspended → ∃ t h, exec (.gaugingAbort ⟨2, 2⟩ slot) s = .next t ∧
      t.gaugings = putAt s.gaugings n (some h) ∧ h.state = .aborted ∧ h.current = none ∧ h.point = none ∧
      h.endTime = some s.host.time ∧ h.results = g.results ∧
      h.step = (if s.carriage.state.working then .returning else .none) ∧ returnsHome s t ∧
      (∀ i v, g.verticals[i]? = some v →
        (g.current ≠ some i ∨ v.status ≠ .todo → h.verticals[i]? = some v) ∧
        (g.current = some i → v.status = .todo → h.verticals[i]? = some { v with
          depth := none, points := [], mean := none, flow := none, method := v.planned, nearBed := false
          downgraded := false, still := false, saturated := false })) ∧
      (s.carriage.state = .waitingMeter → t.meter.exposing = false) ∧
      (s.carriage.state ≠ .waitingMeter → t.meter = s.meter) ∧
      t.host.buffer = some ⟨.ok, 0x64, .nil⟩ ∧ hasMember t.host.attention (.gauging n) = true ∧
      t = { s with gaugings := t.gaugings, carriage := t.carriage, meter := t.meter, host := t.host })

/-- A gauging completed: each edge takes its flow from its neighbour, the measured discharge is the half-up sum, the
mean stage and the midpoint time follow, and, with a rating in force and a stage, the rated discharge of the rating's
answer at the midpoint, the deviation and the indicated shift. GAUGING_ADOPT of a COMPLETE gauging whose rating still
stands writes the shift at the gauging's midpoint time into that rating's list and marks the gauging adopted; an adopted
one is refused. -/
def Obligations.AGaugingIsAdopted : Prop :=
  (∀ (g : Gauging) (now : Nat) (store : RatingStore), ∃ h qm mh mid,
    h = g.completed now store ∧ h.state = .complete ∧ h.endTime = some now ∧ h.step = .returning ∧
    (∀ i v, g.verticals[i]? = some v → (v.edge = false → h.verticals[i]? = some v) ∧
      (v.edge = true → ∀ a mean, g.verticals[if i = 0 then 1 else i - 1]? = some a →
        mean = (if a.status = .skipped then 0 else halfUp (v.edgeFactor * a.mean.getD 0) 1000) →
        h.verticals[i]? = some { v with mean := some mean, flow := some (mean * v.depth.getD 0 * v.span) })) ∧
    h.verticals.length = g.verticals.length ∧
    qm = min 20000000 (halfUp (h.verticals.map fun v => v.flow.getD 0).sum 2000000) ∧ h.results.measured = some qm ∧
    mh = (if g.stageCount = 0 then none else some (halfAway g.stageSum g.stageCount)) ∧ h.results.meanHeight = mh ∧
    mid = (if now < g.startTime.getD 0 then now else g.startTime.getD 0 + halfUp (now - g.startTime.getD 0) 2) ∧
    h.midpoint = mid ∧ h.results.slot = store.inForce ∧
    h.results.generation = (store.inForce.bind fun k => (store.slots.get k).generation) ∧
    (store.inForce = none ∨ mh = none → h.results.rated = none ∧ h.results.deviation = none ∧
      h.results.indicated = none ∧ h.flags = g.flags) ∧
    ∀ k z r, store.inForce = some k → mh = some z →
      r = dischargeAt (store.slots.get k).points (store.slots.get k).allowance
        (z + effectiveShift (store.slots.get k).shifts mid) →
      ratedRequest (store.slots.get k).points (store.slots.get k).allowance (store.slots.get k).shifts z mid =
        ⟨r, effectiveShift (store.slots.get k).shifts mid⟩ ∧
      h.results.rated = some r.discharge ∧
      h.results.deviation = (if r.discharge = 0 then none
        else some (halfAway (((qm : Int) - r.discharge) * 1000) r.discharge)) ∧
      h.results.indicated =
        ((inverseRequest (store.slots.get k).points (store.slots.get k).allowance qm).stage.map fun y => y - z) ∧
      h.flags = { g.flags with extrapolated := g.flags.extrapolated || r.extrapolated ||
        (inverseRequest (store.slots.get k).points (store.slots.get k).allowance qm).extrapolated }) ∧
  ∀ (slot : Byte) (n : Fin 4) (g : Gauging) (k : Fin 3) (v : Int) (gen : Nat) (shift : Option Half) (s : State),
    s.inReset = false → s.host.ignoring = false → slot.toNat = n.val → s.gaugings.get n = some g → g.state = .complete →
    g.results.indicated = some v → g.results.slot = some k → g.results.generation = some gen →
    (∀ x : Half, shift = some x → -2000 ≤ x.toInt ∧ x.toInt ≤ 2000) → (shift = none → -2000 ≤ v ∧ v ≤ 2000) →
    (∀ f : FrameLen, f = (match shift with
        | some _ => ⟨4, 4⟩
        | none => ⟨2, 2⟩) →
      (g.adopted = true → exec (.gaugingAdopt f slot shift) s = .next (respond f.received ⟨.wrongState, 0x66, .nil⟩ s)) ∧
      (g.adopted = false → (s.ratings.slots.get k).state = .inForce → (s.ratings.slots.get k).generation = some gen →
        (s.ratings.slots.get k).shifts.length < 12 → ∃ t x l body, exec (.gaugingAdopt f slot shift) s = .next t ∧
          x = Shift.mk g.midpoint ((shift.map BitVec.toInt).getD v) ∧
          t.gaugings = putAt s.gaugings n (some { g with adopted := true, adoptedShift := some x }) ∧
          t.ratings = { s.ratings with slots := putAt s.ratings.slots k { s.ratings.slots.get k with shifts := l } } ∧
          (∀ y, y ∈ l ↔ y = x ∨ (y ∈ (s.ratings.slots.get k).shifts ∧ y.time ≠ x.time)) ∧
          t.host.buffer = some ⟨.ok, 0x66, body⟩ ∧ hasMember t.host.attention (.gauging n) = true ∧
          t = { s with gaugings := t.gaugings, ratings := t.ratings, host := t.host }))

/-! ## The laws that every step keeps -/

/-- Every step keeps bits 38 and 39 of the attention summary clear. -/
def Obligations.EveryStepKeepsTheAttentionLaw : Prop := ∀ s t, AttentionLaw s → step s = .next t → AttentionLaw t

/-- Every step keeps the law of the power queue and of the one POWERING port. That none waits while none is POWERING
rests on the model's choice that a port freed of the inrush budget hands it on at once: notes/assumptions/8.md. -/
def Obligations.EveryStepKeepsThePowerLaw : Prop := ∀ s t, PowerLaw s → step s = .next t → PowerLaw t

/-- Every step keeps every silent field and every lamp as the record calls for. -/
def Obligations.EveryStepKeepsThePortLaw : Prop := ∀ s t, PortLaw s → step s = .next t → PortLaw t

/-- Every step keeps the law of the line: one claim a user, a free line unclaimed, an identity request for every
IDENTIFYING port and a zero request for every pending zero, and for no other. That a free line has an empty queue rests
on the model's choice that a line set free is granted on at once: notes/assumptions/8.md. -/
def Obligations.EveryStepKeepsTheLineLaw : Prop := ∀ s t, LineLaw s → step s = .next t → LineLaw t

/-- Every step keeps the law of the watch table, the warning lines and the withdraw demand. -/
def Obligations.EveryStepKeepsTheWatchLaw : Prop := ∀ s t, WatchUnitLaw s → step s = .next t → WatchUnitLaw t

/-- Every step keeps the withdraw law, that a demand leaves the carriage no outward step, and the law of HOLD and of the move
timer. -/
def Obligations.EveryStepKeepsTheCarriageLaws : Prop :=
  ∀ s t, step s = .next t → (WithdrawLaw s → WithdrawLaw t) ∧ (HoldLaw s → HoldLaw t)

/-- Every step keeps the laws of the rating store: one slot in force, and lawful point and shift lists. -/
def Obligations.EveryStepKeepsTheRatingLaw : Prop := ∀ s t, RatingLaw s → step s = .next t → RatingLaw t

/-- Every step keeps at most one gauging open. -/
def Obligations.EveryStepKeepsTheGaugingLaw : Prop := ∀ s t, GaugingLaw s → step s = .next t → GaugingLaw t
end

