-- ==== Sys2Proof/Laws/State.lean ====
section
/-! SUPPORT. The small lemmas of the state's updates, one per field per update, and of the tables and the attention set. -/

namespace Sys2Proof.Machine

/-! ## Tables -/

@[simp] theorem putAt_get_self {α : Type} {n : Nat} (v : Vector α n) (k : Fin n) (x : α) : (putAt v k x).get k = x := by
  simp [putAt, Vector.get_eq_getElem]

theorem putAt_get_ne {α : Type} {n : Nat} (v : Vector α n) {k j : Fin n} (x : α) (h : j ≠ k) :
    (putAt v k x).get j = v.get j := by
  have h' : k.val ≠ j.val := fun e => h (Fin.ext e.symm)
  simp [putAt, Vector.get_eq_getElem, Vector.getElem_set_ne, h']

theorem putAt_get {α : Type} {n : Nat} (v : Vector α n) (k j : Fin n) (x : α) :
    (putAt v k x).get j = if j = k then x else v.get j := by
  split
  · next h => subst h; exact putAt_get_self ..
  · next h => exact putAt_get_ne _ _ h

@[simp] theorem putAt_get_same {α : Type} {n : Nat} (v : Vector α n) (k : Fin n) : putAt v k (v.get k) = v := by
  simp [putAt, Vector.get_eq_getElem]

@[simp] theorem putAt_putAt {α : Type} {n : Nat} (v : Vector α n) (k : Fin n) (x y : α) :
    putAt (putAt v k x) k y = putAt v k y := by simp [putAt]

@[simp] theorem mapTable_get {α : Type} {n : Nat} (f : Fin n → α → α) (v : Vector α n) (k : Fin n) :
    (mapTable f v).get k = f k (v.get k) := by simp [mapTable, Vector.get_eq_getElem]

theorem keyOf_eq_some {n : Nat} {b : Byte} {k : Fin n} (h : b.toNat = k.val) : keyOf n b = some k := by
  have hk := k.isLt
  simp [keyOf, h, hk]

theorem keyOf_eq_none {n : Nat} {b : Byte} (h : n ≤ b.toNat) : keyOf n b = none := by
  simp [keyOf, Nat.not_lt.mpr h]

/-- A fold keeps what each of its steps keeps. -/
theorem foldl_keeps {σ β α : Type} (π : σ → β) (f : σ → α → σ) (h : ∀ s a, π (f s a) = π s) (l : List α) (s : σ) :
    π (l.foldl f s) = π s := by
  induction l generalizing s with
  | nil => rfl
  | cons a l ih => rw [List.foldl_cons, ih, h]

/-- A fold keeps a property that each of its steps keeps. -/
theorem foldl_invariant {σ α : Type} (P : σ → Prop) (f : σ → α → σ) (h : ∀ s a, P s → P (f s a)) (l : List α) {s : σ}
    (hs : P s) : P (l.foldl f s) := by
  induction l generalizing s with
  | nil => exact hs
  | cons a l ih => exact ih (h s a hs)

/-! ## The attention set (R182, R186) -/

theorem Member.bit_lt (m : Member) : m.bit < 38 := by
  cases m <;> simp only [Member.bit] <;> omega

theorem Member.bit_injective {m n : Member} (h : m.bit = n.bit) : m = n := by
  cases m <;> cases n <;> simp only [Member.bit] at h <;> first | rfl | (congr 1; omega)

theorem hasMember_withMember (a : BitVec 40) (m n : Member) :
    hasMember (withMember a m) n = (hasMember a n || decide (n = m)) := by
  have hn := n.bit_lt
  have hb : (n.bit = m.bit) ↔ n = m := ⟨Member.bit_injective, fun h => by rw [h]⟩
  have h40 : n.bit < 40 := by omega
  simp [hasMember, withMember, hb, h40]

@[simp] theorem hasMember_withMember_self (a : BitVec 40) (m : Member) : hasMember (withMember a m) m = true := by
  simp [hasMember_withMember]

theorem hasMember_withMember_of {a : BitVec 40} {n : Member} (m : Member) (h : hasMember a n = true) :
    hasMember (withMember a m) n = true := by simp [hasMember_withMember, h]

theorem withMember_high (a : BitVec 40) (m : Member) {i : Nat} (h : 38 ≤ i) :
    (withMember a m).getLsbD i = a.getLsbD i := by
  have := m.bit_lt
  have hi : ¬ m.bit = i := by omega
  simp [withMember, BitVec.getLsbD_or, BitVec.getLsbD_twoPow, hi]

/-! ## addMember, addMemberIf (R182) -/

@[simp] theorem addMember_inReset (m : Member) (s : State) : (addMember m s).inReset = s.inReset := rfl
@[simp] theorem addMember_ports (m : Member) (s : State) : (addMember m s).ports = s.ports := rfl
@[simp] theorem addMember_powerQueue (m : Member) (s : State) : (addMember m s).powerQueue = s.powerQueue := rfl
@[simp] theorem addMember_bus (m : Member) (s : State) : (addMember m s).bus = s.bus := rfl
@[simp] theorem addMember_selector (m : Member) (s : State) : (addMember m s).selector = s.selector := rfl
@[simp] theorem addMember_ratings (m : Member) (s : State) : (addMember m s).ratings = s.ratings := rfl
@[simp] theorem addMember_lastFlow (m : Member) (s : State) : (addMember m s).lastFlow = s.lastFlow := rfl
@[simp] theorem addMember_watches (m : Member) (s : State) : (addMember m s).watches = s.watches := rfl
@[simp] theorem addMember_carriage (m : Member) (s : State) : (addMember m s).carriage = s.carriage := rfl
@[simp] theorem addMember_meter (m : Member) (s : State) : (addMember m s).meter = s.meter := rfl
@[simp] theorem addMember_gaugings (m : Member) (s : State) : (addMember m s).gaugings = s.gaugings := rfl
@[simp] theorem addMember_freeDraws (m : Member) (s : State) : (addMember m s).freeDraws = s.freeDraws := rfl
@[simp] theorem addMember_pending (m : Member) (s : State) : (addMember m s).pending = s.pending := rfl
@[simp] theorem addMember_reception (m : Member) (s : State) : (addMember m s).host.reception = s.host.reception := rfl
@[simp] theorem addMember_buffer (m : Member) (s : State) : (addMember m s).host.buffer = s.host.buffer := rfl
@[simp] theorem addMember_time (m : Member) (s : State) : (addMember m s).host.time = s.host.time := rfl
@[simp] theorem addMember_clockUnset (m : Member) (s : State) : (addMember m s).host.clockUnset = s.host.clockUnset := rfl
@[simp] theorem addMember_sdo (m : Member) (s : State) : (addMember m s).host.sdo = s.host.sdo := rfl
@[simp] theorem addMember_ignoring (m : Member) (s : State) : (addMember m s).host.ignoring = s.host.ignoring := rfl
@[simp] theorem addMember_attention (m : Member) (s : State) :
    (addMember m s).host.attention = withMember s.host.attention m := rfl
@[simp] theorem addMemberIf_inReset (c : Bool) (m : Member) (s : State) : (addMemberIf c m s).inReset = s.inReset := by cases c <;> rfl
@[simp] theorem addMemberIf_ports (c : Bool) (m : Member) (s : State) : (addMemberIf c m s).ports = s.ports := by cases c <;> rfl
@[simp] theorem addMemberIf_powerQueue (c : Bool) (m : Member) (s : State) : (addMemberIf c m s).powerQueue = s.powerQueue := by cases c <;> rfl
@[simp] theorem addMemberIf_bus (c : Bool) (m : Member) (s : State) : (addMemberIf c m s).bus = s.bus := by cases c <;> rfl
@[simp] theorem addMemberIf_selector (c : Bool) (m : Member) (s : State) : (addMemberIf c m s).selector = s.selector := by cases c <;> rfl
@[simp] theorem addMemberIf_ratings (c : Bool) (m : Member) (s : State) : (addMemberIf c m s).ratings = s.ratings := by cases c <;> rfl
@[simp] theorem addMemberIf_lastFlow (c : Bool) (m : Member) (s : State) : (addMemberIf c m s).lastFlow = s.lastFlow := by cases c <;> rfl
@[simp] theorem addMemberIf_watches (c : Bool) (m : Member) (s : State) : (addMemberIf c m s).watches = s.watches := by cases c <;> rfl
@[simp] theorem addMemberIf_carriage (c : Bool) (m : Member) (s : State) : (addMemberIf c m s).carriage = s.carriage := by cases c <;> rfl
@[simp] theorem addMemberIf_meter (c : Bool) (m : Member) (s : State) : (addMemberIf c m s).meter = s.meter := by cases c <;> rfl
@[simp] theorem addMemberIf_gaugings (c : Bool) (m : Member) (s : State) : (addMemberIf c m s).gaugings = s.gaugings := by cases c <;> rfl
@[simp] theorem addMemberIf_freeDraws (c : Bool) (m : Member) (s : State) : (addMemberIf c m s).freeDraws = s.freeDraws := by cases c <;> rfl
@[simp] theorem addMemberIf_pending (c : Bool) (m : Member) (s : State) : (addMemberIf c m s).pending = s.pending := by cases c <;> rfl
@[simp] theorem addMemberIf_reception (c : Bool) (m : Member) (s : State) : (addMemberIf c m s).host.reception = s.host.reception := by cases c <;> rfl
@[simp] theorem addMemberIf_buffer (c : Bool) (m : Member) (s : State) : (addMemberIf c m s).host.buffer = s.host.buffer := by cases c <;> rfl
@[simp] theorem addMemberIf_time (c : Bool) (m : Member) (s : State) : (addMemberIf c m s).host.time = s.host.time := by cases c <;> rfl
@[simp] theorem addMemberIf_clockUnset (c : Bool) (m : Member) (s : State) : (addMemberIf c m s).host.clockUnset = s.host.clockUnset := by cases c <;> rfl
@[simp] theorem addMemberIf_sdo (c : Bool) (m : Member) (s : State) : (addMemberIf c m s).host.sdo = s.host.sdo := by cases c <;> rfl
@[simp] theorem addMemberIf_ignoring (c : Bool) (m : Member) (s : State) : (addMemberIf c m s).host.ignoring = s.host.ignoring := by cases c <;> rfl
@[simp] theorem addMemberIf_attention (c : Bool) (m : Member) (s : State) :
    (addMemberIf c m s).host.attention = if c then withMember s.host.attention m else s.host.attention := by
  cases c <;> rfl

/-! ## respond (R178) -/

@[simp] theorem respond_inReset (n : Nat) (r : Response) (s : State) : (respond n r s).inReset = s.inReset := rfl
@[simp] theorem respond_ports (n : Nat) (r : Response) (s : State) : (respond n r s).ports = s.ports := rfl
@[simp] theorem respond_powerQueue (n : Nat) (r : Response) (s : State) : (respond n r s).powerQueue = s.powerQueue := rfl
@[simp] theorem respond_bus (n : Nat) (r : Response) (s : State) : (respond n r s).bus = s.bus := rfl
@[simp] theorem respond_selector (n : Nat) (r : Response) (s : State) : (respond n r s).selector = s.selector := rfl
@[simp] theorem respond_ratings (n : Nat) (r : Response) (s : State) : (respond n r s).ratings = s.ratings := rfl
@[simp] theorem respond_lastFlow (n : Nat) (r : Response) (s : State) : (respond n r s).lastFlow = s.lastFlow := rfl
@[simp] theorem respond_watches (n : Nat) (r : Response) (s : State) : (respond n r s).watches = s.watches := rfl
@[simp] theorem respond_carriage (n : Nat) (r : Response) (s : State) : (respond n r s).carriage = s.carriage := rfl
@[simp] theorem respond_meter (n : Nat) (r : Response) (s : State) : (respond n r s).meter = s.meter := rfl
@[simp] theorem respond_gaugings (n : Nat) (r : Response) (s : State) : (respond n r s).gaugings = s.gaugings := rfl
@[simp] theorem respond_freeDraws (n : Nat) (r : Response) (s : State) : (respond n r s).freeDraws = s.freeDraws := rfl
@[simp] theorem respond_pending (n : Nat) (r : Response) (s : State) : (respond n r s).pending = s.pending := rfl
@[simp] theorem respond_time (n : Nat) (r : Response) (s : State) : (respond n r s).host.time = s.host.time := rfl
@[simp] theorem respond_clockUnset (n : Nat) (r : Response) (s : State) : (respond n r s).host.clockUnset = s.host.clockUnset := rfl
@[simp] theorem respond_attention (n : Nat) (r : Response) (s : State) : (respond n r s).host.attention = s.host.attention := rfl
@[simp] theorem respond_ignoring (n : Nat) (r : Response) (s : State) : (respond n r s).host.ignoring = s.host.ignoring := rfl
@[simp] theorem respond_buffer (n : Nat) (r : Response) (s : State) : (respond n r s).host.buffer = some r := rfl
@[simp] theorem respond_reception (n : Nat) (r : Response) (s : State) : (respond n r s).host.reception = .idle := rfl
@[simp] theorem respond_sdo (n : Nat) (r : Response) (s : State) : (respond n r s).host.sdo = filler (n + 1) := rfl

/-! ## withBus, putStatus (R30, R31) -/

@[simp] theorem withBus_inReset (f : Bus → Bus) (s : State) : (withBus f s).inReset = s.inReset := rfl
@[simp] theorem withBus_host (f : Bus → Bus) (s : State) : (withBus f s).host = s.host := rfl
@[simp] theorem withBus_ports (f : Bus → Bus) (s : State) : (withBus f s).ports = s.ports := rfl
@[simp] theorem withBus_powerQueue (f : Bus → Bus) (s : State) : (withBus f s).powerQueue = s.powerQueue := rfl
@[simp] theorem withBus_selector (f : Bus → Bus) (s : State) : (withBus f s).selector = s.selector := rfl
@[simp] theorem withBus_ratings (f : Bus → Bus) (s : State) : (withBus f s).ratings = s.ratings := rfl
@[simp] theorem withBus_lastFlow (f : Bus → Bus) (s : State) : (withBus f s).lastFlow = s.lastFlow := rfl
@[simp] theorem withBus_watches (f : Bus → Bus) (s : State) : (withBus f s).watches = s.watches := rfl
@[simp] theorem withBus_carriage (f : Bus → Bus) (s : State) : (withBus f s).carriage = s.carriage := rfl
@[simp] theorem withBus_meter (f : Bus → Bus) (s : State) : (withBus f s).meter = s.meter := rfl
@[simp] theorem withBus_gaugings (f : Bus → Bus) (s : State) : (withBus f s).gaugings = s.gaugings := rfl
@[simp] theorem withBus_freeDraws (f : Bus → Bus) (s : State) : (withBus f s).freeDraws = s.freeDraws := rfl
@[simp] theorem withBus_pending (f : Bus → Bus) (s : State) : (withBus f s).pending = s.pending := rfl
@[simp] theorem withBus_bus (f : Bus → Bus) (s : State) : (withBus f s).bus = f s.bus := rfl
@[simp] theorem putStatus_inReset (p : Fin 4) (f : ReplyStatus → ReplyStatus) (s : State) : (putStatus p f s).inReset = s.inReset := rfl
@[simp] theorem putStatus_host (p : Fin 4) (f : ReplyStatus → ReplyStatus) (s : State) : (putStatus p f s).host = s.host := rfl
@[simp] theorem putStatus_ports (p : Fin 4) (f : ReplyStatus → ReplyStatus) (s : State) : (putStatus p f s).ports = s.ports := rfl
@[simp] theorem putStatus_powerQueue (p : Fin 4) (f : ReplyStatus → ReplyStatus) (s : State) : (putStatus p f s).powerQueue = s.powerQueue := rfl
@[simp] theorem putStatus_selector (p : Fin 4) (f : ReplyStatus → ReplyStatus) (s : State) : (putStatus p f s).selector = s.selector := rfl
@[simp] theorem putStatus_ratings (p : Fin 4) (f : ReplyStatus → ReplyStatus) (s : State) : (putStatus p f s).ratings = s.ratings := rfl
@[simp] theorem putStatus_lastFlow (p : Fin 4) (f : ReplyStatus → ReplyStatus) (s : State) : (putStatus p f s).lastFlow = s.lastFlow := rfl
@[simp] theorem putStatus_watches (p : Fin 4) (f : ReplyStatus → ReplyStatus) (s : State) : (putStatus p f s).watches = s.watches := rfl
@[simp] theorem putStatus_carriage (p : Fin 4) (f : ReplyStatus → ReplyStatus) (s : State) : (putStatus p f s).carriage = s.carriage := rfl
@[simp] theorem putStatus_meter (p : Fin 4) (f : ReplyStatus → ReplyStatus) (s : State) : (putStatus p f s).meter = s.meter := rfl
@[simp] theorem putStatus_gaugings (p : Fin 4) (f : ReplyStatus → ReplyStatus) (s : State) : (putStatus p f s).gaugings = s.gaugings := rfl
@[simp] theorem putStatus_freeDraws (p : Fin 4) (f : ReplyStatus → ReplyStatus) (s : State) : (putStatus p f s).freeDraws = s.freeDraws := rfl
@[simp] theorem putStatus_pending (p : Fin 4) (f : ReplyStatus → ReplyStatus) (s : State) : (putStatus p f s).pending = s.pending := rfl
@[simp] theorem putStatus_bus (p : Fin 4) (f : ReplyStatus → ReplyStatus) (s : State) :
    (putStatus p f s).bus = { s.bus with status := putAt s.bus.status p (f (s.bus.status.get p)) } := rfl

/-! ## storePort (R5, R17, R22) -/

@[simp] theorem storePort_inReset (p : Fin 4) (r : Port) (s : State) : (storePort p r s).inReset = s.inReset := by simp [storePort]
@[simp] theorem storePort_powerQueue (p : Fin 4) (r : Port) (s : State) : (storePort p r s).powerQueue = s.powerQueue := by simp [storePort]
@[simp] theorem storePort_bus (p : Fin 4) (r : Port) (s : State) : (storePort p r s).bus = s.bus := by simp [storePort]
@[simp] theorem storePort_selector (p : Fin 4) (r : Port) (s : State) : (storePort p r s).selector = s.selector := by simp [storePort]
@[simp] theorem storePort_ratings (p : Fin 4) (r : Port) (s : State) : (storePort p r s).ratings = s.ratings := by simp [storePort]
@[simp] theorem storePort_lastFlow (p : Fin 4) (r : Port) (s : State) : (storePort p r s).lastFlow = s.lastFlow := by simp [storePort]
@[simp] theorem storePort_watches (p : Fin 4) (r : Port) (s : State) : (storePort p r s).watches = s.watches := by simp [storePort]
@[simp] theorem storePort_carriage (p : Fin 4) (r : Port) (s : State) : (storePort p r s).carriage = s.carriage := by simp [storePort]
@[simp] theorem storePort_meter (p : Fin 4) (r : Port) (s : State) : (storePort p r s).meter = s.meter := by simp [storePort]
@[simp] theorem storePort_gaugings (p : Fin 4) (r : Port) (s : State) : (storePort p r s).gaugings = s.gaugings := by simp [storePort]
@[simp] theorem storePort_freeDraws (p : Fin 4) (r : Port) (s : State) : (storePort p r s).freeDraws = s.freeDraws := by simp [storePort]
@[simp] theorem storePort_pending (p : Fin 4) (r : Port) (s : State) : (storePort p r s).pending = s.pending := by simp [storePort]
@[simp] theorem storePort_reception (p : Fin 4) (r : Port) (s : State) : (storePort p r s).host.reception = s.host.reception := by simp [storePort]
@[simp] theorem storePort_buffer (p : Fin 4) (r : Port) (s : State) : (storePort p r s).host.buffer = s.host.buffer := by simp [storePort]
@[simp] theorem storePort_time (p : Fin 4) (r : Port) (s : State) : (storePort p r s).host.time = s.host.time := by simp [storePort]
@[simp] theorem storePort_clockUnset (p : Fin 4) (r : Port) (s : State) : (storePort p r s).host.clockUnset = s.host.clockUnset := by simp [storePort]
@[simp] theorem storePort_sdo (p : Fin 4) (r : Port) (s : State) : (storePort p r s).host.sdo = s.host.sdo := by simp [storePort]
@[simp] theorem storePort_ignoring (p : Fin 4) (r : Port) (s : State) : (storePort p r s).host.ignoring = s.host.ignoring := by simp [storePort]
@[simp] theorem storePort_ports (p : Fin 4) (r : Port) (s : State) :
    (storePort p r s).ports = putAt s.ports p ((s.ports.get p).settled r) := by simp [storePort]

/-! ## putSlot, storeGauging, putGauging (R60, R153, R175) -/

@[simp] theorem putSlot_inReset (k : Fin 3) (r : RatingSlot) (s : State) : (putSlot k r s).inReset = s.inReset := rfl
@[simp] theorem putSlot_host (k : Fin 3) (r : RatingSlot) (s : State) : (putSlot k r s).host = s.host := rfl
@[simp] theorem putSlot_ports (k : Fin 3) (r : RatingSlot) (s : State) : (putSlot k r s).ports = s.ports := rfl
@[simp] theorem putSlot_powerQueue (k : Fin 3) (r : RatingSlot) (s : State) : (putSlot k r s).powerQueue = s.powerQueue := rfl
@[simp] theorem putSlot_bus (k : Fin 3) (r : RatingSlot) (s : State) : (putSlot k r s).bus = s.bus := rfl
@[simp] theorem putSlot_selector (k : Fin 3) (r : RatingSlot) (s : State) : (putSlot k r s).selector = s.selector := rfl
@[simp] theorem putSlot_lastFlow (k : Fin 3) (r : RatingSlot) (s : State) : (putSlot k r s).lastFlow = s.lastFlow := rfl
@[simp] theorem putSlot_watches (k : Fin 3) (r : RatingSlot) (s : State) : (putSlot k r s).watches = s.watches := rfl
@[simp] theorem putSlot_carriage (k : Fin 3) (r : RatingSlot) (s : State) : (putSlot k r s).carriage = s.carriage := rfl
@[simp] theorem putSlot_meter (k : Fin 3) (r : RatingSlot) (s : State) : (putSlot k r s).meter = s.meter := rfl
@[simp] theorem putSlot_gaugings (k : Fin 3) (r : RatingSlot) (s : State) : (putSlot k r s).gaugings = s.gaugings := rfl
@[simp] theorem putSlot_freeDraws (k : Fin 3) (r : RatingSlot) (s : State) : (putSlot k r s).freeDraws = s.freeDraws := rfl
@[simp] theorem putSlot_pending (k : Fin 3) (r : RatingSlot) (s : State) : (putSlot k r s).pending = s.pending := rfl
@[simp] theorem putSlot_ratings (k : Fin 3) (r : RatingSlot) (s : State) :
    (putSlot k r s).ratings = { s.ratings with slots := putAt s.ratings.slots k r } := rfl
@[simp] theorem storeGauging_inReset (n : Fin 4) (g : Option Gauging) (s : State) : (storeGauging n g s).inReset = s.inReset := rfl
@[simp] theorem storeGauging_host (n : Fin 4) (g : Option Gauging) (s : State) : (storeGauging n g s).host = s.host := rfl
@[simp] theorem storeGauging_ports (n : Fin 4) (g : Option Gauging) (s : State) : (storeGauging n g s).ports = s.ports := rfl
@[simp] theorem storeGauging_powerQueue (n : Fin 4) (g : Option Gauging) (s : State) : (storeGauging n g s).powerQueue = s.powerQueue := rfl
@[simp] theorem storeGauging_bus (n : Fin 4) (g : Option Gauging) (s : State) : (storeGauging n g s).bus = s.bus := rfl
@[simp] theorem storeGauging_selector (n : Fin 4) (g : Option Gauging) (s : State) : (storeGauging n g s).selector = s.selector := rfl
@[simp] theorem storeGauging_ratings (n : Fin 4) (g : Option Gauging) (s : State) : (storeGauging n g s).ratings = s.ratings := rfl
@[simp] theorem storeGauging_lastFlow (n : Fin 4) (g : Option Gauging) (s : State) : (storeGauging n g s).lastFlow = s.lastFlow := rfl
@[simp] theorem storeGauging_watches (n : Fin 4) (g : Option Gauging) (s : State) : (storeGauging n g s).watches = s.watches := rfl
@[simp] theorem storeGauging_carriage (n : Fin 4) (g : Option Gauging) (s : State) : (storeGauging n g s).carriage = s.carriage := rfl
@[simp] theorem storeGauging_meter (n : Fin 4) (g : Option Gauging) (s : State) : (storeGauging n g s).meter = s.meter := rfl
@[simp] theorem storeGauging_freeDraws (n : Fin 4) (g : Option Gauging) (s : State) : (storeGauging n g s).freeDraws = s.freeDraws := rfl
@[simp] theorem storeGauging_pending (n : Fin 4) (g : Option Gauging) (s : State) : (storeGauging n g s).pending = s.pending := rfl
@[simp] theorem storeGauging_gaugings (n : Fin 4) (g : Option Gauging) (s : State) : (storeGauging n g s).gaugings = putAt s.gaugings n g := rfl
@[simp] theorem putGauging_inReset (n : Fin 4) (g : Gauging) (s : State) : (putGauging n g s).inReset = s.inReset := by simp [putGauging]
@[simp] theorem putGauging_ports (n : Fin 4) (g : Gauging) (s : State) : (putGauging n g s).ports = s.ports := by simp [putGauging]
@[simp] theorem putGauging_powerQueue (n : Fin 4) (g : Gauging) (s : State) : (putGauging n g s).powerQueue = s.powerQueue := by simp [putGauging]
@[simp] theorem putGauging_bus (n : Fin 4) (g : Gauging) (s : State) : (putGauging n g s).bus = s.bus := by simp [putGauging]
@[simp] theorem putGauging_selector (n : Fin 4) (g : Gauging) (s : State) : (putGauging n g s).selector = s.selector := by simp [putGauging]
@[simp] theorem putGauging_ratings (n : Fin 4) (g : Gauging) (s : State) : (putGauging n g s).ratings = s.ratings := by simp [putGauging]
@[simp] theorem putGauging_lastFlow (n : Fin 4) (g : Gauging) (s : State) : (putGauging n g s).lastFlow = s.lastFlow := by simp [putGauging]
@[simp] theorem putGauging_watches (n : Fin 4) (g : Gauging) (s : State) : (putGauging n g s).watches = s.watches := by simp [putGauging]
@[simp] theorem putGauging_carriage (n : Fin 4) (g : Gauging) (s : State) : (putGauging n g s).carriage = s.carriage := by simp [putGauging]
@[simp] theorem putGauging_meter (n : Fin 4) (g : Gauging) (s : State) : (putGauging n g s).meter = s.meter := by simp [putGauging]
@[simp] theorem putGauging_freeDraws (n : Fin 4) (g : Gauging) (s : State) : (putGauging n g s).freeDraws = s.freeDraws := by simp [putGauging]
@[simp] theorem putGauging_pending (n : Fin 4) (g : Gauging) (s : State) : (putGauging n g s).pending = s.pending := by simp [putGauging]
@[simp] theorem putGauging_reception (n : Fin 4) (g : Gauging) (s : State) : (putGauging n g s).host.reception = s.host.reception := by simp [putGauging]
@[simp] theorem putGauging_buffer (n : Fin 4) (g : Gauging) (s : State) : (putGauging n g s).host.buffer = s.host.buffer := by simp [putGauging]
@[simp] theorem putGauging_time (n : Fin 4) (g : Gauging) (s : State) : (putGauging n g s).host.time = s.host.time := by simp [putGauging]
@[simp] theorem putGauging_clockUnset (n : Fin 4) (g : Gauging) (s : State) : (putGauging n g s).host.clockUnset = s.host.clockUnset := by simp [putGauging]
@[simp] theorem putGauging_sdo (n : Fin 4) (g : Gauging) (s : State) : (putGauging n g s).host.sdo = s.host.sdo := by simp [putGauging]
@[simp] theorem putGauging_ignoring (n : Fin 4) (g : Gauging) (s : State) : (putGauging n g s).host.ignoring = s.host.ignoring := by simp [putGauging]
@[simp] theorem putGauging_gaugings (n : Fin 4) (g : Gauging) (s : State) : (putGauging n g s).gaugings = putAt s.gaugings n (some g) := by
  simp [putGauging]

/-! ## putCarriage (R134, R141) -/

@[simp] theorem putCarriage_inReset (c : Carriage) (s : State) : (putCarriage c s).inReset = s.inReset := by simp [putCarriage]
@[simp] theorem putCarriage_ports (c : Carriage) (s : State) : (putCarriage c s).ports = s.ports := by simp [putCarriage]
@[simp] theorem putCarriage_powerQueue (c : Carriage) (s : State) : (putCarriage c s).powerQueue = s.powerQueue := by simp [putCarriage]
@[simp] theorem putCarriage_bus (c : Carriage) (s : State) : (putCarriage c s).bus = s.bus := by simp [putCarriage]
@[simp] theorem putCarriage_selector (c : Carriage) (s : State) : (putCarriage c s).selector = s.selector := by simp [putCarriage]
@[simp] theorem putCarriage_ratings (c : Carriage) (s : State) : (putCarriage c s).ratings = s.ratings := by simp [putCarriage]
@[simp] theorem putCarriage_lastFlow (c : Carriage) (s : State) : (putCarriage c s).lastFlow = s.lastFlow := by simp [putCarriage]
@[simp] theorem putCarriage_watches (c : Carriage) (s : State) : (putCarriage c s).watches = s.watches := by simp [putCarriage]
@[simp] theorem putCarriage_gaugings (c : Carriage) (s : State) : (putCarriage c s).gaugings = s.gaugings := by simp [putCarriage]
@[simp] theorem putCarriage_freeDraws (c : Carriage) (s : State) : (putCarriage c s).freeDraws = s.freeDraws := by simp [putCarriage]
@[simp] theorem putCarriage_pending (c : Carriage) (s : State) : (putCarriage c s).pending = s.pending := by simp [putCarriage]
@[simp] theorem putCarriage_reception (c : Carriage) (s : State) : (putCarriage c s).host.reception = s.host.reception := by simp [putCarriage]
@[simp] theorem putCarriage_buffer (c : Carriage) (s : State) : (putCarriage c s).host.buffer = s.host.buffer := by simp [putCarriage]
@[simp] theorem putCarriage_time (c : Carriage) (s : State) : (putCarriage c s).host.time = s.host.time := by simp [putCarriage]
@[simp] theorem putCarriage_clockUnset (c : Carriage) (s : State) : (putCarriage c s).host.clockUnset = s.host.clockUnset := by simp [putCarriage]
@[simp] theorem putCarriage_sdo (c : Carriage) (s : State) : (putCarriage c s).host.sdo = s.host.sdo := by simp [putCarriage]
@[simp] theorem putCarriage_ignoring (c : Carriage) (s : State) : (putCarriage c s).host.ignoring = s.host.ignoring := by simp [putCarriage]
@[simp] theorem putCarriage_carriage (c : Carriage) (s : State) : (putCarriage c s).carriage = c := by simp [putCarriage]
@[simp] theorem putCarriage_meter (c : Carriage) (s : State) : (putCarriage c s).meter =
    if s.carriage.state = .waitingMeter ∧ c.state ≠ .waitingMeter then s.meter.abandon else s.meter := by simp [putCarriage]

end Sys2Proof.Machine
end

