-- ==== Sys2Proof/Laws/Frames.lean ====
section
/-! SUPPORT. What each shared operation leaves as it was: one lemma per kept field per operation, from the records of the
gauging unit up to the close of a round and the moves of the ports. -/

namespace Sys2Proof.Machine

/-! ## Attention marks (R119, R57) -/

@[simp] theorem markWatches_inReset (test : Fin 24 → Bool) (s : State) : (markWatches test s).inReset = s.inReset := by
  unfold markWatches; exact foldl_keeps (fun x : State => x.inReset) _ (by intro s a; simp) _ s
@[simp] theorem markWatches_ports (test : Fin 24 → Bool) (s : State) : (markWatches test s).ports = s.ports := by
  unfold markWatches; exact foldl_keeps (fun x : State => x.ports) _ (by intro s a; simp) _ s
@[simp] theorem markWatches_powerQueue (test : Fin 24 → Bool) (s : State) : (markWatches test s).powerQueue = s.powerQueue := by
  unfold markWatches; exact foldl_keeps (fun x : State => x.powerQueue) _ (by intro s a; simp) _ s
@[simp] theorem markWatches_bus (test : Fin 24 → Bool) (s : State) : (markWatches test s).bus = s.bus := by
  unfold markWatches; exact foldl_keeps (fun x : State => x.bus) _ (by intro s a; simp) _ s
@[simp] theorem markWatches_selector (test : Fin 24 → Bool) (s : State) : (markWatches test s).selector = s.selector := by
  unfold markWatches; exact foldl_keeps (fun x : State => x.selector) _ (by intro s a; simp) _ s
@[simp] theorem markWatches_ratings (test : Fin 24 → Bool) (s : State) : (markWatches test s).ratings = s.ratings := by
  unfold markWatches; exact foldl_keeps (fun x : State => x.ratings) _ (by intro s a; simp) _ s
@[simp] theorem markWatches_lastFlow (test : Fin 24 → Bool) (s : State) : (markWatches test s).lastFlow = s.lastFlow := by
  unfold markWatches; exact foldl_keeps (fun x : State => x.lastFlow) _ (by intro s a; simp) _ s
@[simp] theorem markWatches_watches (test : Fin 24 → Bool) (s : State) : (markWatches test s).watches = s.watches := by
  unfold markWatches; exact foldl_keeps (fun x : State => x.watches) _ (by intro s a; simp) _ s
@[simp] theorem markWatches_carriage (test : Fin 24 → Bool) (s : State) : (markWatches test s).carriage = s.carriage := by
  unfold markWatches; exact foldl_keeps (fun x : State => x.carriage) _ (by intro s a; simp) _ s
@[simp] theorem markWatches_meter (test : Fin 24 → Bool) (s : State) : (markWatches test s).meter = s.meter := by
  unfold markWatches; exact foldl_keeps (fun x : State => x.meter) _ (by intro s a; simp) _ s
@[simp] theorem markWatches_gaugings (test : Fin 24 → Bool) (s : State) : (markWatches test s).gaugings = s.gaugings := by
  unfold markWatches; exact foldl_keeps (fun x : State => x.gaugings) _ (by intro s a; simp) _ s
@[simp] theorem markWatches_freeDraws (test : Fin 24 → Bool) (s : State) : (markWatches test s).freeDraws = s.freeDraws := by
  unfold markWatches; exact foldl_keeps (fun x : State => x.freeDraws) _ (by intro s a; simp) _ s
@[simp] theorem markWatches_pending (test : Fin 24 → Bool) (s : State) : (markWatches test s).pending = s.pending := by
  unfold markWatches; exact foldl_keeps (fun x : State => x.pending) _ (by intro s a; simp) _ s
@[simp] theorem markWatches_reception (test : Fin 24 → Bool) (s : State) : (markWatches test s).host.reception = s.host.reception := by
  unfold markWatches; exact foldl_keeps (fun x : State => x.host.reception) _ (by intro s a; simp) _ s
@[simp] theorem markWatches_buffer (test : Fin 24 → Bool) (s : State) : (markWatches test s).host.buffer = s.host.buffer := by
  unfold markWatches; exact foldl_keeps (fun x : State => x.host.buffer) _ (by intro s a; simp) _ s
@[simp] theorem markWatches_time (test : Fin 24 → Bool) (s : State) : (markWatches test s).host.time = s.host.time := by
  unfold markWatches; exact foldl_keeps (fun x : State => x.host.time) _ (by intro s a; simp) _ s
@[simp] theorem markWatches_clockUnset (test : Fin 24 → Bool) (s : State) : (markWatches test s).host.clockUnset = s.host.clockUnset := by
  unfold markWatches; exact foldl_keeps (fun x : State => x.host.clockUnset) _ (by intro s a; simp) _ s
@[simp] theorem markWatches_sdo (test : Fin 24 → Bool) (s : State) : (markWatches test s).host.sdo = s.host.sdo := by
  unfold markWatches; exact foldl_keeps (fun x : State => x.host.sdo) _ (by intro s a; simp) _ s
@[simp] theorem markWatches_ignoring (test : Fin 24 → Bool) (s : State) : (markWatches test s).host.ignoring = s.host.ignoring := by
  unfold markWatches; exact foldl_keeps (fun x : State => x.host.ignoring) _ (by intro s a; simp) _ s
@[simp] theorem markSample_inReset (q : Quality) (x : StageSample) (s : State) : (markSample q x s).inReset = s.inReset := by
  simp [markSample]
@[simp] theorem markSample_ports (q : Quality) (x : StageSample) (s : State) : (markSample q x s).ports = s.ports := by
  simp [markSample]
@[simp] theorem markSample_powerQueue (q : Quality) (x : StageSample) (s : State) : (markSample q x s).powerQueue = s.powerQueue := by
  simp [markSample]
@[simp] theorem markSample_bus (q : Quality) (x : StageSample) (s : State) : (markSample q x s).bus = s.bus := by
  simp [markSample]
@[simp] theorem markSample_selector (q : Quality) (x : StageSample) (s : State) : (markSample q x s).selector = s.selector := by
  simp [markSample]
@[simp] theorem markSample_ratings (q : Quality) (x : StageSample) (s : State) : (markSample q x s).ratings = s.ratings := by
  simp [markSample]
@[simp] theorem markSample_lastFlow (q : Quality) (x : StageSample) (s : State) : (markSample q x s).lastFlow = s.lastFlow := by
  simp [markSample]
@[simp] theorem markSample_watches (q : Quality) (x : StageSample) (s : State) : (markSample q x s).watches = s.watches := by
  simp [markSample]
@[simp] theorem markSample_carriage (q : Quality) (x : StageSample) (s : State) : (markSample q x s).carriage = s.carriage := by
  simp [markSample]
@[simp] theorem markSample_meter (q : Quality) (x : StageSample) (s : State) : (markSample q x s).meter = s.meter := by
  simp [markSample]
@[simp] theorem markSample_gaugings (q : Quality) (x : StageSample) (s : State) : (markSample q x s).gaugings = s.gaugings := by
  simp [markSample]
@[simp] theorem markSample_freeDraws (q : Quality) (x : StageSample) (s : State) : (markSample q x s).freeDraws = s.freeDraws := by
  simp [markSample]
@[simp] theorem markSample_pending (q : Quality) (x : StageSample) (s : State) : (markSample q x s).pending = s.pending := by
  simp [markSample]
@[simp] theorem markSample_reception (q : Quality) (x : StageSample) (s : State) : (markSample q x s).host.reception = s.host.reception := by
  simp [markSample]
@[simp] theorem markSample_buffer (q : Quality) (x : StageSample) (s : State) : (markSample q x s).host.buffer = s.host.buffer := by
  simp [markSample]
@[simp] theorem markSample_time (q : Quality) (x : StageSample) (s : State) : (markSample q x s).host.time = s.host.time := by
  simp [markSample]
@[simp] theorem markSample_clockUnset (q : Quality) (x : StageSample) (s : State) : (markSample q x s).host.clockUnset = s.host.clockUnset := by
  simp [markSample]
@[simp] theorem markSample_sdo (q : Quality) (x : StageSample) (s : State) : (markSample q x s).host.sdo = s.host.sdo := by
  simp [markSample]
@[simp] theorem markSample_ignoring (q : Quality) (x : StageSample) (s : State) : (markSample q x s).host.ignoring = s.host.ignoring := by
  simp [markSample]

/-! ## The gauging unit's records (R164 to R166) -/

@[simp] theorem putEachGauging_inReset (f : Gauging → Gauging) (s : State) : (putEachGauging f s).inReset = s.inReset := by
  unfold putEachGauging; exact foldl_keeps (fun x : State => x.inReset) _ (by intro s a; (repeat' split) <;> simp) _ s
@[simp] theorem putEachGauging_ports (f : Gauging → Gauging) (s : State) : (putEachGauging f s).ports = s.ports := by
  unfold putEachGauging; exact foldl_keeps (fun x : State => x.ports) _ (by intro s a; (repeat' split) <;> simp) _ s
@[simp] theorem putEachGauging_powerQueue (f : Gauging → Gauging) (s : State) : (putEachGauging f s).powerQueue = s.powerQueue := by
  unfold putEachGauging; exact foldl_keeps (fun x : State => x.powerQueue) _ (by intro s a; (repeat' split) <;> simp) _ s
@[simp] theorem putEachGauging_bus (f : Gauging → Gauging) (s : State) : (putEachGauging f s).bus = s.bus := by
  unfold putEachGauging; exact foldl_keeps (fun x : State => x.bus) _ (by intro s a; (repeat' split) <;> simp) _ s
@[simp] theorem putEachGauging_selector (f : Gauging → Gauging) (s : State) : (putEachGauging f s).selector = s.selector := by
  unfold putEachGauging; exact foldl_keeps (fun x : State => x.selector) _ (by intro s a; (repeat' split) <;> simp) _ s
@[simp] theorem putEachGauging_ratings (f : Gauging → Gauging) (s : State) : (putEachGauging f s).ratings = s.ratings := by
  unfold putEachGauging; exact foldl_keeps (fun x : State => x.ratings) _ (by intro s a; (repeat' split) <;> simp) _ s
@[simp] theorem putEachGauging_lastFlow (f : Gauging → Gauging) (s : State) : (putEachGauging f s).lastFlow = s.lastFlow := by
  unfold putEachGauging; exact foldl_keeps (fun x : State => x.lastFlow) _ (by intro s a; (repeat' split) <;> simp) _ s
@[simp] theorem putEachGauging_watches (f : Gauging → Gauging) (s : State) : (putEachGauging f s).watches = s.watches := by
  unfold putEachGauging; exact foldl_keeps (fun x : State => x.watches) _ (by intro s a; (repeat' split) <;> simp) _ s
@[simp] theorem putEachGauging_carriage (f : Gauging → Gauging) (s : State) : (putEachGauging f s).carriage = s.carriage := by
  unfold putEachGauging; exact foldl_keeps (fun x : State => x.carriage) _ (by intro s a; (repeat' split) <;> simp) _ s
@[simp] theorem putEachGauging_meter (f : Gauging → Gauging) (s : State) : (putEachGauging f s).meter = s.meter := by
  unfold putEachGauging; exact foldl_keeps (fun x : State => x.meter) _ (by intro s a; (repeat' split) <;> simp) _ s
@[simp] theorem putEachGauging_freeDraws (f : Gauging → Gauging) (s : State) : (putEachGauging f s).freeDraws = s.freeDraws := by
  unfold putEachGauging; exact foldl_keeps (fun x : State => x.freeDraws) _ (by intro s a; (repeat' split) <;> simp) _ s
@[simp] theorem putEachGauging_pending (f : Gauging → Gauging) (s : State) : (putEachGauging f s).pending = s.pending := by
  unfold putEachGauging; exact foldl_keeps (fun x : State => x.pending) _ (by intro s a; (repeat' split) <;> simp) _ s
@[simp] theorem putEachGauging_reception (f : Gauging → Gauging) (s : State) : (putEachGauging f s).host.reception = s.host.reception := by
  unfold putEachGauging; exact foldl_keeps (fun x : State => x.host.reception) _ (by intro s a; (repeat' split) <;> simp) _ s
@[simp] theorem putEachGauging_buffer (f : Gauging → Gauging) (s : State) : (putEachGauging f s).host.buffer = s.host.buffer := by
  unfold putEachGauging; exact foldl_keeps (fun x : State => x.host.buffer) _ (by intro s a; (repeat' split) <;> simp) _ s
@[simp] theorem putEachGauging_time (f : Gauging → Gauging) (s : State) : (putEachGauging f s).host.time = s.host.time := by
  unfold putEachGauging; exact foldl_keeps (fun x : State => x.host.time) _ (by intro s a; (repeat' split) <;> simp) _ s
@[simp] theorem putEachGauging_clockUnset (f : Gauging → Gauging) (s : State) : (putEachGauging f s).host.clockUnset = s.host.clockUnset := by
  unfold putEachGauging; exact foldl_keeps (fun x : State => x.host.clockUnset) _ (by intro s a; (repeat' split) <;> simp) _ s
@[simp] theorem putEachGauging_sdo (f : Gauging → Gauging) (s : State) : (putEachGauging f s).host.sdo = s.host.sdo := by
  unfold putEachGauging; exact foldl_keeps (fun x : State => x.host.sdo) _ (by intro s a; (repeat' split) <;> simp) _ s
@[simp] theorem putEachGauging_ignoring (f : Gauging → Gauging) (s : State) : (putEachGauging f s).host.ignoring = s.host.ignoring := by
  unfold putEachGauging; exact foldl_keeps (fun x : State => x.host.ignoring) _ (by intro s a; (repeat' split) <;> simp) _ s
@[simp] theorem takeStopped_inReset (c : StopCause) (s : State) : (takeStopped c s).inReset = s.inReset := by
  simp [takeStopped]
@[simp] theorem takeStopped_ports (c : StopCause) (s : State) : (takeStopped c s).ports = s.ports := by
  simp [takeStopped]
@[simp] theorem takeStopped_powerQueue (c : StopCause) (s : State) : (takeStopped c s).powerQueue = s.powerQueue := by
  simp [takeStopped]
@[simp] theorem takeStopped_bus (c : StopCause) (s : State) : (takeStopped c s).bus = s.bus := by
  simp [takeStopped]
@[simp] theorem takeStopped_selector (c : StopCause) (s : State) : (takeStopped c s).selector = s.selector := by
  simp [takeStopped]
@[simp] theorem takeStopped_ratings (c : StopCause) (s : State) : (takeStopped c s).ratings = s.ratings := by
  simp [takeStopped]
@[simp] theorem takeStopped_lastFlow (c : StopCause) (s : State) : (takeStopped c s).lastFlow = s.lastFlow := by
  simp [takeStopped]
@[simp] theorem takeStopped_watches (c : StopCause) (s : State) : (takeStopped c s).watches = s.watches := by
  simp [takeStopped]
@[simp] theorem takeStopped_carriage (c : StopCause) (s : State) : (takeStopped c s).carriage = s.carriage := by
  simp [takeStopped]
@[simp] theorem takeStopped_meter (c : StopCause) (s : State) : (takeStopped c s).meter = s.meter := by
  simp [takeStopped]
@[simp] theorem takeStopped_freeDraws (c : StopCause) (s : State) : (takeStopped c s).freeDraws = s.freeDraws := by
  simp [takeStopped]
@[simp] theorem takeStopped_pending (c : StopCause) (s : State) : (takeStopped c s).pending = s.pending := by
  simp [takeStopped]
@[simp] theorem takeStopped_reception (c : StopCause) (s : State) : (takeStopped c s).host.reception = s.host.reception := by
  simp [takeStopped]
@[simp] theorem takeStopped_buffer (c : StopCause) (s : State) : (takeStopped c s).host.buffer = s.host.buffer := by
  simp [takeStopped]
@[simp] theorem takeStopped_time (c : StopCause) (s : State) : (takeStopped c s).host.time = s.host.time := by
  simp [takeStopped]
@[simp] theorem takeStopped_clockUnset (c : StopCause) (s : State) : (takeStopped c s).host.clockUnset = s.host.clockUnset := by
  simp [takeStopped]
@[simp] theorem takeStopped_sdo (c : StopCause) (s : State) : (takeStopped c s).host.sdo = s.host.sdo := by
  simp [takeStopped]
@[simp] theorem takeStopped_ignoring (c : StopCause) (s : State) : (takeStopped c s).host.ignoring = s.host.ignoring := by
  simp [takeStopped]
@[simp] theorem gaugingWithdraw_inReset (s : State) : (gaugingWithdraw s).inReset = s.inReset := by
  simp [gaugingWithdraw]
@[simp] theorem gaugingWithdraw_ports (s : State) : (gaugingWithdraw s).ports = s.ports := by
  simp [gaugingWithdraw]
@[simp] theorem gaugingWithdraw_powerQueue (s : State) : (gaugingWithdraw s).powerQueue = s.powerQueue := by
  simp [gaugingWithdraw]
@[simp] theorem gaugingWithdraw_bus (s : State) : (gaugingWithdraw s).bus = s.bus := by
  simp [gaugingWithdraw]
@[simp] theorem gaugingWithdraw_selector (s : State) : (gaugingWithdraw s).selector = s.selector := by
  simp [gaugingWithdraw]
@[simp] theorem gaugingWithdraw_ratings (s : State) : (gaugingWithdraw s).ratings = s.ratings := by
  simp [gaugingWithdraw]
@[simp] theorem gaugingWithdraw_lastFlow (s : State) : (gaugingWithdraw s).lastFlow = s.lastFlow := by
  simp [gaugingWithdraw]
@[simp] theorem gaugingWithdraw_watches (s : State) : (gaugingWithdraw s).watches = s.watches := by
  simp [gaugingWithdraw]
@[simp] theorem gaugingWithdraw_carriage (s : State) : (gaugingWithdraw s).carriage = s.carriage := by
  simp [gaugingWithdraw]
@[simp] theorem gaugingWithdraw_meter (s : State) : (gaugingWithdraw s).meter = s.meter := by
  simp [gaugingWithdraw]
@[simp] theorem gaugingWithdraw_freeDraws (s : State) : (gaugingWithdraw s).freeDraws = s.freeDraws := by
  simp [gaugingWithdraw]
@[simp] theorem gaugingWithdraw_pending (s : State) : (gaugingWithdraw s).pending = s.pending := by
  simp [gaugingWithdraw]
@[simp] theorem gaugingWithdraw_reception (s : State) : (gaugingWithdraw s).host.reception = s.host.reception := by
  simp [gaugingWithdraw]
@[simp] theorem gaugingWithdraw_buffer (s : State) : (gaugingWithdraw s).host.buffer = s.host.buffer := by
  simp [gaugingWithdraw]
@[simp] theorem gaugingWithdraw_time (s : State) : (gaugingWithdraw s).host.time = s.host.time := by
  simp [gaugingWithdraw]
@[simp] theorem gaugingWithdraw_clockUnset (s : State) : (gaugingWithdraw s).host.clockUnset = s.host.clockUnset := by
  simp [gaugingWithdraw]
@[simp] theorem gaugingWithdraw_sdo (s : State) : (gaugingWithdraw s).host.sdo = s.host.sdo := by
  simp [gaugingWithdraw]
@[simp] theorem gaugingWithdraw_ignoring (s : State) : (gaugingWithdraw s).host.ignoring = s.host.ignoring := by
  simp [gaugingWithdraw]
@[simp] theorem gaugingTakeFlow_inReset (x : StageSample) (s : State) : (gaugingTakeFlow x s).inReset = s.inReset := by
  simp [gaugingTakeFlow]
@[simp] theorem gaugingTakeFlow_ports (x : StageSample) (s : State) : (gaugingTakeFlow x s).ports = s.ports := by
  simp [gaugingTakeFlow]
@[simp] theorem gaugingTakeFlow_powerQueue (x : StageSample) (s : State) : (gaugingTakeFlow x s).powerQueue = s.powerQueue := by
  simp [gaugingTakeFlow]
@[simp] theorem gaugingTakeFlow_bus (x : StageSample) (s : State) : (gaugingTakeFlow x s).bus = s.bus := by
  simp [gaugingTakeFlow]
@[simp] theorem gaugingTakeFlow_selector (x : StageSample) (s : State) : (gaugingTakeFlow x s).selector = s.selector := by
  simp [gaugingTakeFlow]
@[simp] theorem gaugingTakeFlow_ratings (x : StageSample) (s : State) : (gaugingTakeFlow x s).ratings = s.ratings := by
  simp [gaugingTakeFlow]
@[simp] theorem gaugingTakeFlow_lastFlow (x : StageSample) (s : State) : (gaugingTakeFlow x s).lastFlow = s.lastFlow := by
  simp [gaugingTakeFlow]
@[simp] theorem gaugingTakeFlow_watches (x : StageSample) (s : State) : (gaugingTakeFlow x s).watches = s.watches := by
  simp [gaugingTakeFlow]
@[simp] theorem gaugingTakeFlow_carriage (x : StageSample) (s : State) : (gaugingTakeFlow x s).carriage = s.carriage := by
  simp [gaugingTakeFlow]
@[simp] theorem gaugingTakeFlow_meter (x : StageSample) (s : State) : (gaugingTakeFlow x s).meter = s.meter := by
  simp [gaugingTakeFlow]
@[simp] theorem gaugingTakeFlow_freeDraws (x : StageSample) (s : State) : (gaugingTakeFlow x s).freeDraws = s.freeDraws := by
  simp [gaugingTakeFlow]
@[simp] theorem gaugingTakeFlow_pending (x : StageSample) (s : State) : (gaugingTakeFlow x s).pending = s.pending := by
  simp [gaugingTakeFlow]
@[simp] theorem gaugingTakeFlow_reception (x : StageSample) (s : State) : (gaugingTakeFlow x s).host.reception = s.host.reception := by
  simp [gaugingTakeFlow]
@[simp] theorem gaugingTakeFlow_buffer (x : StageSample) (s : State) : (gaugingTakeFlow x s).host.buffer = s.host.buffer := by
  simp [gaugingTakeFlow]
@[simp] theorem gaugingTakeFlow_time (x : StageSample) (s : State) : (gaugingTakeFlow x s).host.time = s.host.time := by
  simp [gaugingTakeFlow]
@[simp] theorem gaugingTakeFlow_clockUnset (x : StageSample) (s : State) : (gaugingTakeFlow x s).host.clockUnset = s.host.clockUnset := by
  simp [gaugingTakeFlow]
@[simp] theorem gaugingTakeFlow_sdo (x : StageSample) (s : State) : (gaugingTakeFlow x s).host.sdo = s.host.sdo := by
  simp [gaugingTakeFlow]
@[simp] theorem gaugingTakeFlow_ignoring (x : StageSample) (s : State) : (gaugingTakeFlow x s).host.ignoring = s.host.ignoring := by
  simp [gaugingTakeFlow]
@[simp] theorem takeParked_inReset (s : State) : (takeParked s).inReset = s.inReset := by
  unfold takeParked; exact foldl_keeps (fun x : State => x.inReset) _ (by intro s a; (repeat' split) <;> simp) _ s
@[simp] theorem takeParked_ports (s : State) : (takeParked s).ports = s.ports := by
  unfold takeParked; exact foldl_keeps (fun x : State => x.ports) _ (by intro s a; (repeat' split) <;> simp) _ s
@[simp] theorem takeParked_powerQueue (s : State) : (takeParked s).powerQueue = s.powerQueue := by
  unfold takeParked; exact foldl_keeps (fun x : State => x.powerQueue) _ (by intro s a; (repeat' split) <;> simp) _ s
@[simp] theorem takeParked_bus (s : State) : (takeParked s).bus = s.bus := by
  unfold takeParked; exact foldl_keeps (fun x : State => x.bus) _ (by intro s a; (repeat' split) <;> simp) _ s
@[simp] theorem takeParked_selector (s : State) : (takeParked s).selector = s.selector := by
  unfold takeParked; exact foldl_keeps (fun x : State => x.selector) _ (by intro s a; (repeat' split) <;> simp) _ s
@[simp] theorem takeParked_ratings (s : State) : (takeParked s).ratings = s.ratings := by
  unfold takeParked; exact foldl_keeps (fun x : State => x.ratings) _ (by intro s a; (repeat' split) <;> simp) _ s
@[simp] theorem takeParked_lastFlow (s : State) : (takeParked s).lastFlow = s.lastFlow := by
  unfold takeParked; exact foldl_keeps (fun x : State => x.lastFlow) _ (by intro s a; (repeat' split) <;> simp) _ s
@[simp] theorem takeParked_watches (s : State) : (takeParked s).watches = s.watches := by
  unfold takeParked; exact foldl_keeps (fun x : State => x.watches) _ (by intro s a; (repeat' split) <;> simp) _ s
@[simp] theorem takeParked_carriage (s : State) : (takeParked s).carriage = s.carriage := by
  unfold takeParked; exact foldl_keeps (fun x : State => x.carriage) _ (by intro s a; (repeat' split) <;> simp) _ s
@[simp] theorem takeParked_meter (s : State) : (takeParked s).meter = s.meter := by
  unfold takeParked; exact foldl_keeps (fun x : State => x.meter) _ (by intro s a; (repeat' split) <;> simp) _ s
@[simp] theorem takeParked_freeDraws (s : State) : (takeParked s).freeDraws = s.freeDraws := by
  unfold takeParked; exact foldl_keeps (fun x : State => x.freeDraws) _ (by intro s a; (repeat' split) <;> simp) _ s
@[simp] theorem takeParked_pending (s : State) : (takeParked s).pending = s.pending := by
  unfold takeParked; exact foldl_keeps (fun x : State => x.pending) _ (by intro s a; (repeat' split) <;> simp) _ s
@[simp] theorem takeParked_reception (s : State) : (takeParked s).host.reception = s.host.reception := by
  unfold takeParked; exact foldl_keeps (fun x : State => x.host.reception) _ (by intro s a; (repeat' split) <;> simp) _ s
@[simp] theorem takeParked_buffer (s : State) : (takeParked s).host.buffer = s.host.buffer := by
  unfold takeParked; exact foldl_keeps (fun x : State => x.host.buffer) _ (by intro s a; (repeat' split) <;> simp) _ s
@[simp] theorem takeParked_time (s : State) : (takeParked s).host.time = s.host.time := by
  unfold takeParked; exact foldl_keeps (fun x : State => x.host.time) _ (by intro s a; (repeat' split) <;> simp) _ s
@[simp] theorem takeParked_clockUnset (s : State) : (takeParked s).host.clockUnset = s.host.clockUnset := by
  unfold takeParked; exact foldl_keeps (fun x : State => x.host.clockUnset) _ (by intro s a; (repeat' split) <;> simp) _ s
@[simp] theorem takeParked_sdo (s : State) : (takeParked s).host.sdo = s.host.sdo := by
  unfold takeParked; exact foldl_keeps (fun x : State => x.host.sdo) _ (by intro s a; (repeat' split) <;> simp) _ s
@[simp] theorem takeParked_ignoring (s : State) : (takeParked s).host.ignoring = s.host.ignoring := by
  unfold takeParked; exact foldl_keeps (fun x : State => x.host.ignoring) _ (by intro s a; (repeat' split) <;> simp) _ s

/-! ## Requests to the carriage (R131, R135, R137) -/

@[simp] theorem askVisit_inReset (d : Nat) (s : State) : (askVisit d s).inReset = s.inReset := by
  simp only [askVisit]; (repeat' split) <;> simp
@[simp] theorem askVisit_ports (d : Nat) (s : State) : (askVisit d s).ports = s.ports := by
  simp only [askVisit]; (repeat' split) <;> simp
@[simp] theorem askVisit_powerQueue (d : Nat) (s : State) : (askVisit d s).powerQueue = s.powerQueue := by
  simp only [askVisit]; (repeat' split) <;> simp
@[simp] theorem askVisit_bus (d : Nat) (s : State) : (askVisit d s).bus = s.bus := by
  simp only [askVisit]; (repeat' split) <;> simp
@[simp] theorem askVisit_selector (d : Nat) (s : State) : (askVisit d s).selector = s.selector := by
  simp only [askVisit]; (repeat' split) <;> simp
@[simp] theorem askVisit_ratings (d : Nat) (s : State) : (askVisit d s).ratings = s.ratings := by
  simp only [askVisit]; (repeat' split) <;> simp
@[simp] theorem askVisit_lastFlow (d : Nat) (s : State) : (askVisit d s).lastFlow = s.lastFlow := by
  simp only [askVisit]; (repeat' split) <;> simp
@[simp] theorem askVisit_watches (d : Nat) (s : State) : (askVisit d s).watches = s.watches := by
  simp only [askVisit]; (repeat' split) <;> simp
@[simp] theorem askVisit_gaugings (d : Nat) (s : State) : (askVisit d s).gaugings = s.gaugings := by
  simp only [askVisit]; (repeat' split) <;> simp
@[simp] theorem askVisit_freeDraws (d : Nat) (s : State) : (askVisit d s).freeDraws = s.freeDraws := by
  simp only [askVisit]; (repeat' split) <;> simp
@[simp] theorem askVisit_pending (d : Nat) (s : State) : (askVisit d s).pending = s.pending := by
  simp only [askVisit]; (repeat' split) <;> simp
@[simp] theorem askVisit_reception (d : Nat) (s : State) : (askVisit d s).host.reception = s.host.reception := by
  simp only [askVisit]; (repeat' split) <;> simp
@[simp] theorem askVisit_buffer (d : Nat) (s : State) : (askVisit d s).host.buffer = s.host.buffer := by
  simp only [askVisit]; (repeat' split) <;> simp
@[simp] theorem askVisit_time (d : Nat) (s : State) : (askVisit d s).host.time = s.host.time := by
  simp only [askVisit]; (repeat' split) <;> simp
@[simp] theorem askVisit_clockUnset (d : Nat) (s : State) : (askVisit d s).host.clockUnset = s.host.clockUnset := by
  simp only [askVisit]; (repeat' split) <;> simp
@[simp] theorem askVisit_sdo (d : Nat) (s : State) : (askVisit d s).host.sdo = s.host.sdo := by
  simp only [askVisit]; (repeat' split) <;> simp
@[simp] theorem askVisit_ignoring (d : Nat) (s : State) : (askVisit d s).host.ignoring = s.host.ignoring := by
  simp only [askVisit]; (repeat' split) <;> simp
@[simp] theorem askSet_inReset (d o : Nat) (s : State) : (askSet d o s).inReset = s.inReset := by
  simp only [askSet]; (repeat' split) <;> simp
@[simp] theorem askSet_ports (d o : Nat) (s : State) : (askSet d o s).ports = s.ports := by
  simp only [askSet]; (repeat' split) <;> simp
@[simp] theorem askSet_powerQueue (d o : Nat) (s : State) : (askSet d o s).powerQueue = s.powerQueue := by
  simp only [askSet]; (repeat' split) <;> simp
@[simp] theorem askSet_bus (d o : Nat) (s : State) : (askSet d o s).bus = s.bus := by
  simp only [askSet]; (repeat' split) <;> simp
@[simp] theorem askSet_selector (d o : Nat) (s : State) : (askSet d o s).selector = s.selector := by
  simp only [askSet]; (repeat' split) <;> simp
@[simp] theorem askSet_ratings (d o : Nat) (s : State) : (askSet d o s).ratings = s.ratings := by
  simp only [askSet]; (repeat' split) <;> simp
@[simp] theorem askSet_lastFlow (d o : Nat) (s : State) : (askSet d o s).lastFlow = s.lastFlow := by
  simp only [askSet]; (repeat' split) <;> simp
@[simp] theorem askSet_watches (d o : Nat) (s : State) : (askSet d o s).watches = s.watches := by
  simp only [askSet]; (repeat' split) <;> simp
@[simp] theorem askSet_gaugings (d o : Nat) (s : State) : (askSet d o s).gaugings = s.gaugings := by
  simp only [askSet]; (repeat' split) <;> simp
@[simp] theorem askSet_freeDraws (d o : Nat) (s : State) : (askSet d o s).freeDraws = s.freeDraws := by
  simp only [askSet]; (repeat' split) <;> simp
@[simp] theorem askSet_pending (d o : Nat) (s : State) : (askSet d o s).pending = s.pending := by
  simp only [askSet]; (repeat' split) <;> simp
@[simp] theorem askSet_reception (d o : Nat) (s : State) : (askSet d o s).host.reception = s.host.reception := by
  simp only [askSet]; (repeat' split) <;> simp
@[simp] theorem askSet_buffer (d o : Nat) (s : State) : (askSet d o s).host.buffer = s.host.buffer := by
  simp only [askSet]; (repeat' split) <;> simp
@[simp] theorem askSet_time (d o : Nat) (s : State) : (askSet d o s).host.time = s.host.time := by
  simp only [askSet]; (repeat' split) <;> simp
@[simp] theorem askSet_clockUnset (d o : Nat) (s : State) : (askSet d o s).host.clockUnset = s.host.clockUnset := by
  simp only [askSet]; (repeat' split) <;> simp
@[simp] theorem askSet_sdo (d o : Nat) (s : State) : (askSet d o s).host.sdo = s.host.sdo := by
  simp only [askSet]; (repeat' split) <;> simp
@[simp] theorem askSet_ignoring (d o : Nat) (s : State) : (askSet d o s).host.ignoring = s.host.ignoring := by
  simp only [askSet]; (repeat' split) <;> simp
@[simp] theorem askMoveOn_inReset (d : Nat) (s : State) : (askMoveOn d s).inReset = s.inReset := by
  simp only [askMoveOn]; (repeat' split) <;> simp
@[simp] theorem askMoveOn_ports (d : Nat) (s : State) : (askMoveOn d s).ports = s.ports := by
  simp only [askMoveOn]; (repeat' split) <;> simp
@[simp] theorem askMoveOn_powerQueue (d : Nat) (s : State) : (askMoveOn d s).powerQueue = s.powerQueue := by
  simp only [askMoveOn]; (repeat' split) <;> simp
@[simp] theorem askMoveOn_bus (d : Nat) (s : State) : (askMoveOn d s).bus = s.bus := by
  simp only [askMoveOn]; (repeat' split) <;> simp
@[simp] theorem askMoveOn_selector (d : Nat) (s : State) : (askMoveOn d s).selector = s.selector := by
  simp only [askMoveOn]; (repeat' split) <;> simp
@[simp] theorem askMoveOn_ratings (d : Nat) (s : State) : (askMoveOn d s).ratings = s.ratings := by
  simp only [askMoveOn]; (repeat' split) <;> simp
@[simp] theorem askMoveOn_lastFlow (d : Nat) (s : State) : (askMoveOn d s).lastFlow = s.lastFlow := by
  simp only [askMoveOn]; (repeat' split) <;> simp
@[simp] theorem askMoveOn_watches (d : Nat) (s : State) : (askMoveOn d s).watches = s.watches := by
  simp only [askMoveOn]; (repeat' split) <;> simp
@[simp] theorem askMoveOn_gaugings (d : Nat) (s : State) : (askMoveOn d s).gaugings = s.gaugings := by
  simp only [askMoveOn]; (repeat' split) <;> simp
@[simp] theorem askMoveOn_freeDraws (d : Nat) (s : State) : (askMoveOn d s).freeDraws = s.freeDraws := by
  simp only [askMoveOn]; (repeat' split) <;> simp
@[simp] theorem askMoveOn_pending (d : Nat) (s : State) : (askMoveOn d s).pending = s.pending := by
  simp only [askMoveOn]; (repeat' split) <;> simp
@[simp] theorem askMoveOn_reception (d : Nat) (s : State) : (askMoveOn d s).host.reception = s.host.reception := by
  simp only [askMoveOn]; (repeat' split) <;> simp
@[simp] theorem askMoveOn_buffer (d : Nat) (s : State) : (askMoveOn d s).host.buffer = s.host.buffer := by
  simp only [askMoveOn]; (repeat' split) <;> simp
@[simp] theorem askMoveOn_time (d : Nat) (s : State) : (askMoveOn d s).host.time = s.host.time := by
  simp only [askMoveOn]; (repeat' split) <;> simp
@[simp] theorem askMoveOn_clockUnset (d : Nat) (s : State) : (askMoveOn d s).host.clockUnset = s.host.clockUnset := by
  simp only [askMoveOn]; (repeat' split) <;> simp
@[simp] theorem askMoveOn_sdo (d : Nat) (s : State) : (askMoveOn d s).host.sdo = s.host.sdo := by
  simp only [askMoveOn]; (repeat' split) <;> simp
@[simp] theorem askMoveOn_ignoring (d : Nat) (s : State) : (askMoveOn d s).host.ignoring = s.host.ignoring := by
  simp only [askMoveOn]; (repeat' split) <;> simp
@[simp] theorem askReturn_inReset (s : State) : (askReturn s).inReset = s.inReset := by
  simp only [askReturn]; (repeat' split) <;> simp
@[simp] theorem askReturn_ports (s : State) : (askReturn s).ports = s.ports := by
  simp only [askReturn]; (repeat' split) <;> simp
@[simp] theorem askReturn_powerQueue (s : State) : (askReturn s).powerQueue = s.powerQueue := by
  simp only [askReturn]; (repeat' split) <;> simp
@[simp] theorem askReturn_bus (s : State) : (askReturn s).bus = s.bus := by
  simp only [askReturn]; (repeat' split) <;> simp
@[simp] theorem askReturn_selector (s : State) : (askReturn s).selector = s.selector := by
  simp only [askReturn]; (repeat' split) <;> simp
@[simp] theorem askReturn_ratings (s : State) : (askReturn s).ratings = s.ratings := by
  simp only [askReturn]; (repeat' split) <;> simp
@[simp] theorem askReturn_lastFlow (s : State) : (askReturn s).lastFlow = s.lastFlow := by
  simp only [askReturn]; (repeat' split) <;> simp
@[simp] theorem askReturn_watches (s : State) : (askReturn s).watches = s.watches := by
  simp only [askReturn]; (repeat' split) <;> simp
@[simp] theorem askReturn_gaugings (s : State) : (askReturn s).gaugings = s.gaugings := by
  simp only [askReturn]; (repeat' split) <;> simp
@[simp] theorem askReturn_freeDraws (s : State) : (askReturn s).freeDraws = s.freeDraws := by
  simp only [askReturn]; (repeat' split) <;> simp
@[simp] theorem askReturn_pending (s : State) : (askReturn s).pending = s.pending := by
  simp only [askReturn]; (repeat' split) <;> simp
@[simp] theorem askReturn_reception (s : State) : (askReturn s).host.reception = s.host.reception := by
  simp only [askReturn]; (repeat' split) <;> simp
@[simp] theorem askReturn_buffer (s : State) : (askReturn s).host.buffer = s.host.buffer := by
  simp only [askReturn]; (repeat' split) <;> simp
@[simp] theorem askReturn_time (s : State) : (askReturn s).host.time = s.host.time := by
  simp only [askReturn]; (repeat' split) <;> simp
@[simp] theorem askReturn_clockUnset (s : State) : (askReturn s).host.clockUnset = s.host.clockUnset := by
  simp only [askReturn]; (repeat' split) <;> simp
@[simp] theorem askReturn_sdo (s : State) : (askReturn s).host.sdo = s.host.sdo := by
  simp only [askReturn]; (repeat' split) <;> simp
@[simp] theorem askReturn_ignoring (s : State) : (askReturn s).host.ignoring = s.host.ignoring := by
  simp only [askReturn]; (repeat' split) <;> simp
@[simp] theorem carriageWithdraw_inReset (s : State) : (carriageWithdraw s).inReset = s.inReset := by
  simp only [carriageWithdraw]; (repeat' split) <;> simp
@[simp] theorem carriageWithdraw_ports (s : State) : (carriageWithdraw s).ports = s.ports := by
  simp only [carriageWithdraw]; (repeat' split) <;> simp
@[simp] theorem carriageWithdraw_powerQueue (s : State) : (carriageWithdraw s).powerQueue = s.powerQueue := by
  simp only [carriageWithdraw]; (repeat' split) <;> simp
@[simp] theorem carriageWithdraw_bus (s : State) : (carriageWithdraw s).bus = s.bus := by
  simp only [carriageWithdraw]; (repeat' split) <;> simp
@[simp] theorem carriageWithdraw_selector (s : State) : (carriageWithdraw s).selector = s.selector := by
  simp only [carriageWithdraw]; (repeat' split) <;> simp
@[simp] theorem carriageWithdraw_ratings (s : State) : (carriageWithdraw s).ratings = s.ratings := by
  simp only [carriageWithdraw]; (repeat' split) <;> simp
@[simp] theorem carriageWithdraw_lastFlow (s : State) : (carriageWithdraw s).lastFlow = s.lastFlow := by
  simp only [carriageWithdraw]; (repeat' split) <;> simp
@[simp] theorem carriageWithdraw_watches (s : State) : (carriageWithdraw s).watches = s.watches := by
  simp only [carriageWithdraw]; (repeat' split) <;> simp
@[simp] theorem carriageWithdraw_gaugings (s : State) : (carriageWithdraw s).gaugings = s.gaugings := by
  simp only [carriageWithdraw]; (repeat' split) <;> simp
@[simp] theorem carriageWithdraw_freeDraws (s : State) : (carriageWithdraw s).freeDraws = s.freeDraws := by
  simp only [carriageWithdraw]; (repeat' split) <;> simp
@[simp] theorem carriageWithdraw_pending (s : State) : (carriageWithdraw s).pending = s.pending := by
  simp only [carriageWithdraw]; (repeat' split) <;> simp
@[simp] theorem carriageWithdraw_reception (s : State) : (carriageWithdraw s).host.reception = s.host.reception := by
  simp only [carriageWithdraw]; (repeat' split) <;> simp
@[simp] theorem carriageWithdraw_buffer (s : State) : (carriageWithdraw s).host.buffer = s.host.buffer := by
  simp only [carriageWithdraw]; (repeat' split) <;> simp
@[simp] theorem carriageWithdraw_time (s : State) : (carriageWithdraw s).host.time = s.host.time := by
  simp only [carriageWithdraw]; (repeat' split) <;> simp
@[simp] theorem carriageWithdraw_clockUnset (s : State) : (carriageWithdraw s).host.clockUnset = s.host.clockUnset := by
  simp only [carriageWithdraw]; (repeat' split) <;> simp
@[simp] theorem carriageWithdraw_sdo (s : State) : (carriageWithdraw s).host.sdo = s.host.sdo := by
  simp only [carriageWithdraw]; (repeat' split) <;> simp
@[simp] theorem carriageWithdraw_ignoring (s : State) : (carriageWithdraw s).host.ignoring = s.host.ignoring := by
  simp only [carriageWithdraw]; (repeat' split) <;> simp

/-! ## The run of a gauging (R158 to R163) -/

@[simp] theorem beginVisit_inReset (n : Fin 4) (g : Gauging) (s : State) : (beginVisit n g s).inReset = s.inReset := by
  simp only [beginVisit]; (repeat' split) <;> simp
@[simp] theorem beginVisit_ports (n : Fin 4) (g : Gauging) (s : State) : (beginVisit n g s).ports = s.ports := by
  simp only [beginVisit]; (repeat' split) <;> simp
@[simp] theorem beginVisit_powerQueue (n : Fin 4) (g : Gauging) (s : State) : (beginVisit n g s).powerQueue = s.powerQueue := by
  simp only [beginVisit]; (repeat' split) <;> simp
@[simp] theorem beginVisit_bus (n : Fin 4) (g : Gauging) (s : State) : (beginVisit n g s).bus = s.bus := by
  simp only [beginVisit]; (repeat' split) <;> simp
@[simp] theorem beginVisit_selector (n : Fin 4) (g : Gauging) (s : State) : (beginVisit n g s).selector = s.selector := by
  simp only [beginVisit]; (repeat' split) <;> simp
@[simp] theorem beginVisit_ratings (n : Fin 4) (g : Gauging) (s : State) : (beginVisit n g s).ratings = s.ratings := by
  simp only [beginVisit]; (repeat' split) <;> simp
@[simp] theorem beginVisit_lastFlow (n : Fin 4) (g : Gauging) (s : State) : (beginVisit n g s).lastFlow = s.lastFlow := by
  simp only [beginVisit]; (repeat' split) <;> simp
@[simp] theorem beginVisit_watches (n : Fin 4) (g : Gauging) (s : State) : (beginVisit n g s).watches = s.watches := by
  simp only [beginVisit]; (repeat' split) <;> simp
@[simp] theorem beginVisit_freeDraws (n : Fin 4) (g : Gauging) (s : State) : (beginVisit n g s).freeDraws = s.freeDraws := by
  simp only [beginVisit]; (repeat' split) <;> simp
@[simp] theorem beginVisit_pending (n : Fin 4) (g : Gauging) (s : State) : (beginVisit n g s).pending = s.pending := by
  simp only [beginVisit]; (repeat' split) <;> simp
@[simp] theorem beginVisit_reception (n : Fin 4) (g : Gauging) (s : State) : (beginVisit n g s).host.reception = s.host.reception := by
  simp only [beginVisit]; (repeat' split) <;> simp
@[simp] theorem beginVisit_buffer (n : Fin 4) (g : Gauging) (s : State) : (beginVisit n g s).host.buffer = s.host.buffer := by
  simp only [beginVisit]; (repeat' split) <;> simp
@[simp] theorem beginVisit_time (n : Fin 4) (g : Gauging) (s : State) : (beginVisit n g s).host.time = s.host.time := by
  simp only [beginVisit]; (repeat' split) <;> simp
@[simp] theorem beginVisit_clockUnset (n : Fin 4) (g : Gauging) (s : State) : (beginVisit n g s).host.clockUnset = s.host.clockUnset := by
  simp only [beginVisit]; (repeat' split) <;> simp
@[simp] theorem beginVisit_sdo (n : Fin 4) (g : Gauging) (s : State) : (beginVisit n g s).host.sdo = s.host.sdo := by
  simp only [beginVisit]; (repeat' split) <;> simp
@[simp] theorem beginVisit_ignoring (n : Fin 4) (g : Gauging) (s : State) : (beginVisit n g s).host.ignoring = s.host.ignoring := by
  simp only [beginVisit]; (repeat' split) <;> simp
@[simp] theorem finishVertical_inReset (n : Fin 4) (g : Gauging) (i : Nat) (s : State) : (finishVertical n g i s).inReset = s.inReset := by
  simp only [finishVertical]; split <;> simp
@[simp] theorem finishVertical_ports (n : Fin 4) (g : Gauging) (i : Nat) (s : State) : (finishVertical n g i s).ports = s.ports := by
  simp only [finishVertical]; split <;> simp
@[simp] theorem finishVertical_powerQueue (n : Fin 4) (g : Gauging) (i : Nat) (s : State) : (finishVertical n g i s).powerQueue = s.powerQueue := by
  simp only [finishVertical]; split <;> simp
@[simp] theorem finishVertical_bus (n : Fin 4) (g : Gauging) (i : Nat) (s : State) : (finishVertical n g i s).bus = s.bus := by
  simp only [finishVertical]; split <;> simp
@[simp] theorem finishVertical_selector (n : Fin 4) (g : Gauging) (i : Nat) (s : State) : (finishVertical n g i s).selector = s.selector := by
  simp only [finishVertical]; split <;> simp
@[simp] theorem finishVertical_ratings (n : Fin 4) (g : Gauging) (i : Nat) (s : State) : (finishVertical n g i s).ratings = s.ratings := by
  simp only [finishVertical]; split <;> simp
@[simp] theorem finishVertical_lastFlow (n : Fin 4) (g : Gauging) (i : Nat) (s : State) : (finishVertical n g i s).lastFlow = s.lastFlow := by
  simp only [finishVertical]; split <;> simp
@[simp] theorem finishVertical_watches (n : Fin 4) (g : Gauging) (i : Nat) (s : State) : (finishVertical n g i s).watches = s.watches := by
  simp only [finishVertical]; split <;> simp
@[simp] theorem finishVertical_freeDraws (n : Fin 4) (g : Gauging) (i : Nat) (s : State) : (finishVertical n g i s).freeDraws = s.freeDraws := by
  simp only [finishVertical]; split <;> simp
@[simp] theorem finishVertical_pending (n : Fin 4) (g : Gauging) (i : Nat) (s : State) : (finishVertical n g i s).pending = s.pending := by
  simp only [finishVertical]; split <;> simp
@[simp] theorem finishVertical_reception (n : Fin 4) (g : Gauging) (i : Nat) (s : State) : (finishVertical n g i s).host.reception = s.host.reception := by
  simp only [finishVertical]; split <;> simp
@[simp] theorem finishVertical_buffer (n : Fin 4) (g : Gauging) (i : Nat) (s : State) : (finishVertical n g i s).host.buffer = s.host.buffer := by
  simp only [finishVertical]; split <;> simp
@[simp] theorem finishVertical_time (n : Fin 4) (g : Gauging) (i : Nat) (s : State) : (finishVertical n g i s).host.time = s.host.time := by
  simp only [finishVertical]; split <;> simp
@[simp] theorem finishVertical_clockUnset (n : Fin 4) (g : Gauging) (i : Nat) (s : State) : (finishVertical n g i s).host.clockUnset = s.host.clockUnset := by
  simp only [finishVertical]; split <;> simp
@[simp] theorem finishVertical_sdo (n : Fin 4) (g : Gauging) (i : Nat) (s : State) : (finishVertical n g i s).host.sdo = s.host.sdo := by
  simp only [finishVertical]; split <;> simp
@[simp] theorem finishVertical_ignoring (n : Fin 4) (g : Gauging) (i : Nat) (s : State) : (finishVertical n g i s).host.ignoring = s.host.ignoring := by
  simp only [finishVertical]; split <;> simp
@[simp] theorem takeSounded_inReset (d : Nat) (s : State) : (takeSounded d s).inReset = s.inReset := by
  simp only [takeSounded]; (repeat' split) <;> simp
@[simp] theorem takeSounded_ports (d : Nat) (s : State) : (takeSounded d s).ports = s.ports := by
  simp only [takeSounded]; (repeat' split) <;> simp
@[simp] theorem takeSounded_powerQueue (d : Nat) (s : State) : (takeSounded d s).powerQueue = s.powerQueue := by
  simp only [takeSounded]; (repeat' split) <;> simp
@[simp] theorem takeSounded_bus (d : Nat) (s : State) : (takeSounded d s).bus = s.bus := by
  simp only [takeSounded]; (repeat' split) <;> simp
@[simp] theorem takeSounded_selector (d : Nat) (s : State) : (takeSounded d s).selector = s.selector := by
  simp only [takeSounded]; (repeat' split) <;> simp
@[simp] theorem takeSounded_ratings (d : Nat) (s : State) : (takeSounded d s).ratings = s.ratings := by
  simp only [takeSounded]; (repeat' split) <;> simp
@[simp] theorem takeSounded_lastFlow (d : Nat) (s : State) : (takeSounded d s).lastFlow = s.lastFlow := by
  simp only [takeSounded]; (repeat' split) <;> simp
@[simp] theorem takeSounded_watches (d : Nat) (s : State) : (takeSounded d s).watches = s.watches := by
  simp only [takeSounded]; (repeat' split) <;> simp
@[simp] theorem takeSounded_freeDraws (d : Nat) (s : State) : (takeSounded d s).freeDraws = s.freeDraws := by
  simp only [takeSounded]; (repeat' split) <;> simp
@[simp] theorem takeSounded_pending (d : Nat) (s : State) : (takeSounded d s).pending = s.pending := by
  simp only [takeSounded]; (repeat' split) <;> simp
@[simp] theorem takeSounded_reception (d : Nat) (s : State) : (takeSounded d s).host.reception = s.host.reception := by
  simp only [takeSounded]; (repeat' split) <;> simp
@[simp] theorem takeSounded_buffer (d : Nat) (s : State) : (takeSounded d s).host.buffer = s.host.buffer := by
  simp only [takeSounded]; (repeat' split) <;> simp
@[simp] theorem takeSounded_time (d : Nat) (s : State) : (takeSounded d s).host.time = s.host.time := by
  simp only [takeSounded]; (repeat' split) <;> simp
@[simp] theorem takeSounded_clockUnset (d : Nat) (s : State) : (takeSounded d s).host.clockUnset = s.host.clockUnset := by
  simp only [takeSounded]; (repeat' split) <;> simp
@[simp] theorem takeSounded_sdo (d : Nat) (s : State) : (takeSounded d s).host.sdo = s.host.sdo := by
  simp only [takeSounded]; (repeat' split) <;> simp
@[simp] theorem takeSounded_ignoring (d : Nat) (s : State) : (takeSounded d s).host.ignoring = s.host.ignoring := by
  simp only [takeSounded]; (repeat' split) <;> simp
@[simp] theorem takePointSet_inReset (s : State) : (takePointSet s).inReset = s.inReset := by
  simp only [takePointSet]; (repeat' split) <;> simp
@[simp] theorem takePointSet_ports (s : State) : (takePointSet s).ports = s.ports := by
  simp only [takePointSet]; (repeat' split) <;> simp
@[simp] theorem takePointSet_powerQueue (s : State) : (takePointSet s).powerQueue = s.powerQueue := by
  simp only [takePointSet]; (repeat' split) <;> simp
@[simp] theorem takePointSet_bus (s : State) : (takePointSet s).bus = s.bus := by
  simp only [takePointSet]; (repeat' split) <;> simp
@[simp] theorem takePointSet_selector (s : State) : (takePointSet s).selector = s.selector := by
  simp only [takePointSet]; (repeat' split) <;> simp
@[simp] theorem takePointSet_ratings (s : State) : (takePointSet s).ratings = s.ratings := by
  simp only [takePointSet]; (repeat' split) <;> simp
@[simp] theorem takePointSet_lastFlow (s : State) : (takePointSet s).lastFlow = s.lastFlow := by
  simp only [takePointSet]; (repeat' split) <;> simp
@[simp] theorem takePointSet_watches (s : State) : (takePointSet s).watches = s.watches := by
  simp only [takePointSet]; (repeat' split) <;> simp
@[simp] theorem takePointSet_freeDraws (s : State) : (takePointSet s).freeDraws = s.freeDraws := by
  simp only [takePointSet]; (repeat' split) <;> simp
@[simp] theorem takePointSet_pending (s : State) : (takePointSet s).pending = s.pending := by
  simp only [takePointSet]; (repeat' split) <;> simp
@[simp] theorem takePointSet_reception (s : State) : (takePointSet s).host.reception = s.host.reception := by
  simp only [takePointSet]; (repeat' split) <;> simp
@[simp] theorem takePointSet_buffer (s : State) : (takePointSet s).host.buffer = s.host.buffer := by
  simp only [takePointSet]; (repeat' split) <;> simp
@[simp] theorem takePointSet_time (s : State) : (takePointSet s).host.time = s.host.time := by
  simp only [takePointSet]; (repeat' split) <;> simp
@[simp] theorem takePointSet_clockUnset (s : State) : (takePointSet s).host.clockUnset = s.host.clockUnset := by
  simp only [takePointSet]; (repeat' split) <;> simp
@[simp] theorem takePointSet_sdo (s : State) : (takePointSet s).host.sdo = s.host.sdo := by
  simp only [takePointSet]; (repeat' split) <;> simp
@[simp] theorem takePointSet_ignoring (s : State) : (takePointSet s).host.ignoring = s.host.ignoring := by
  simp only [takePointSet]; (repeat' split) <;> simp
@[simp] theorem takePointResult_inReset (x : PointResult) (s : State) : (takePointResult x s).inReset = s.inReset := by
  simp only [takePointResult]; (repeat' split) <;> simp
@[simp] theorem takePointResult_ports (x : PointResult) (s : State) : (takePointResult x s).ports = s.ports := by
  simp only [takePointResult]; (repeat' split) <;> simp
@[simp] theorem takePointResult_powerQueue (x : PointResult) (s : State) : (takePointResult x s).powerQueue = s.powerQueue := by
  simp only [takePointResult]; (repeat' split) <;> simp
@[simp] theorem takePointResult_bus (x : PointResult) (s : State) : (takePointResult x s).bus = s.bus := by
  simp only [takePointResult]; (repeat' split) <;> simp
@[simp] theorem takePointResult_selector (x : PointResult) (s : State) : (takePointResult x s).selector = s.selector := by
  simp only [takePointResult]; (repeat' split) <;> simp
@[simp] theorem takePointResult_ratings (x : PointResult) (s : State) : (takePointResult x s).ratings = s.ratings := by
  simp only [takePointResult]; (repeat' split) <;> simp
@[simp] theorem takePointResult_lastFlow (x : PointResult) (s : State) : (takePointResult x s).lastFlow = s.lastFlow := by
  simp only [takePointResult]; (repeat' split) <;> simp
@[simp] theorem takePointResult_watches (x : PointResult) (s : State) : (takePointResult x s).watches = s.watches := by
  simp only [takePointResult]; (repeat' split) <;> simp
@[simp] theorem takePointResult_freeDraws (x : PointResult) (s : State) : (takePointResult x s).freeDraws = s.freeDraws := by
  simp only [takePointResult]; (repeat' split) <;> simp
@[simp] theorem takePointResult_pending (x : PointResult) (s : State) : (takePointResult x s).pending = s.pending := by
  simp only [takePointResult]; (repeat' split) <;> simp
@[simp] theorem takePointResult_reception (x : PointResult) (s : State) : (takePointResult x s).host.reception = s.host.reception := by
  simp only [takePointResult]; (repeat' split) <;> simp
@[simp] theorem takePointResult_buffer (x : PointResult) (s : State) : (takePointResult x s).host.buffer = s.host.buffer := by
  simp only [takePointResult]; (repeat' split) <;> simp
@[simp] theorem takePointResult_time (x : PointResult) (s : State) : (takePointResult x s).host.time = s.host.time := by
  simp only [takePointResult]; (repeat' split) <;> simp
@[simp] theorem takePointResult_clockUnset (x : PointResult) (s : State) : (takePointResult x s).host.clockUnset = s.host.clockUnset := by
  simp only [takePointResult]; (repeat' split) <;> simp
@[simp] theorem takePointResult_sdo (x : PointResult) (s : State) : (takePointResult x s).host.sdo = s.host.sdo := by
  simp only [takePointResult]; (repeat' split) <;> simp
@[simp] theorem takePointResult_ignoring (x : PointResult) (s : State) : (takePointResult x s).host.ignoring = s.host.ignoring := by
  simp only [takePointResult]; (repeat' split) <;> simp
@[simp] theorem stopCarriage_inReset (k : StopCause) (c : Carriage) (s : State) : (stopCarriage k c s).inReset = s.inReset := by
  simp only [stopCarriage]; split <;> simp
@[simp] theorem stopCarriage_ports (k : StopCause) (c : Carriage) (s : State) : (stopCarriage k c s).ports = s.ports := by
  simp only [stopCarriage]; split <;> simp
@[simp] theorem stopCarriage_powerQueue (k : StopCause) (c : Carriage) (s : State) : (stopCarriage k c s).powerQueue = s.powerQueue := by
  simp only [stopCarriage]; split <;> simp
@[simp] theorem stopCarriage_bus (k : StopCause) (c : Carriage) (s : State) : (stopCarriage k c s).bus = s.bus := by
  simp only [stopCarriage]; split <;> simp
@[simp] theorem stopCarriage_selector (k : StopCause) (c : Carriage) (s : State) : (stopCarriage k c s).selector = s.selector := by
  simp only [stopCarriage]; split <;> simp
@[simp] theorem stopCarriage_ratings (k : StopCause) (c : Carriage) (s : State) : (stopCarriage k c s).ratings = s.ratings := by
  simp only [stopCarriage]; split <;> simp
@[simp] theorem stopCarriage_lastFlow (k : StopCause) (c : Carriage) (s : State) : (stopCarriage k c s).lastFlow = s.lastFlow := by
  simp only [stopCarriage]; split <;> simp
@[simp] theorem stopCarriage_watches (k : StopCause) (c : Carriage) (s : State) : (stopCarriage k c s).watches = s.watches := by
  simp only [stopCarriage]; split <;> simp
@[simp] theorem stopCarriage_freeDraws (k : StopCause) (c : Carriage) (s : State) : (stopCarriage k c s).freeDraws = s.freeDraws := by
  simp only [stopCarriage]; split <;> simp
@[simp] theorem stopCarriage_pending (k : StopCause) (c : Carriage) (s : State) : (stopCarriage k c s).pending = s.pending := by
  simp only [stopCarriage]; split <;> simp
@[simp] theorem stopCarriage_reception (k : StopCause) (c : Carriage) (s : State) : (stopCarriage k c s).host.reception = s.host.reception := by
  simp only [stopCarriage]; split <;> simp
@[simp] theorem stopCarriage_buffer (k : StopCause) (c : Carriage) (s : State) : (stopCarriage k c s).host.buffer = s.host.buffer := by
  simp only [stopCarriage]; split <;> simp
@[simp] theorem stopCarriage_time (k : StopCause) (c : Carriage) (s : State) : (stopCarriage k c s).host.time = s.host.time := by
  simp only [stopCarriage]; split <;> simp
@[simp] theorem stopCarriage_clockUnset (k : StopCause) (c : Carriage) (s : State) : (stopCarriage k c s).host.clockUnset = s.host.clockUnset := by
  simp only [stopCarriage]; split <;> simp
@[simp] theorem stopCarriage_sdo (k : StopCause) (c : Carriage) (s : State) : (stopCarriage k c s).host.sdo = s.host.sdo := by
  simp only [stopCarriage]; split <;> simp
@[simp] theorem stopCarriage_ignoring (k : StopCause) (c : Carriage) (s : State) : (stopCarriage k c s).host.ignoring = s.host.ignoring := by
  simp only [stopCarriage]; split <;> simp
@[simp] theorem putSounding_inReset (c : Carriage) (s : State) : (putSounding c s).inReset = s.inReset := by
  simp only [putSounding]; split <;> simp
@[simp] theorem putSounding_ports (c : Carriage) (s : State) : (putSounding c s).ports = s.ports := by
  simp only [putSounding]; split <;> simp
@[simp] theorem putSounding_powerQueue (c : Carriage) (s : State) : (putSounding c s).powerQueue = s.powerQueue := by
  simp only [putSounding]; split <;> simp
@[simp] theorem putSounding_bus (c : Carriage) (s : State) : (putSounding c s).bus = s.bus := by
  simp only [putSounding]; split <;> simp
@[simp] theorem putSounding_selector (c : Carriage) (s : State) : (putSounding c s).selector = s.selector := by
  simp only [putSounding]; split <;> simp
@[simp] theorem putSounding_ratings (c : Carriage) (s : State) : (putSounding c s).ratings = s.ratings := by
  simp only [putSounding]; split <;> simp
@[simp] theorem putSounding_lastFlow (c : Carriage) (s : State) : (putSounding c s).lastFlow = s.lastFlow := by
  simp only [putSounding]; split <;> simp
@[simp] theorem putSounding_watches (c : Carriage) (s : State) : (putSounding c s).watches = s.watches := by
  simp only [putSounding]; split <;> simp
@[simp] theorem putSounding_freeDraws (c : Carriage) (s : State) : (putSounding c s).freeDraws = s.freeDraws := by
  simp only [putSounding]; split <;> simp
@[simp] theorem putSounding_pending (c : Carriage) (s : State) : (putSounding c s).pending = s.pending := by
  simp only [putSounding]; split <;> simp
@[simp] theorem putSounding_reception (c : Carriage) (s : State) : (putSounding c s).host.reception = s.host.reception := by
  simp only [putSounding]; split <;> simp
@[simp] theorem putSounding_buffer (c : Carriage) (s : State) : (putSounding c s).host.buffer = s.host.buffer := by
  simp only [putSounding]; split <;> simp
@[simp] theorem putSounding_time (c : Carriage) (s : State) : (putSounding c s).host.time = s.host.time := by
  simp only [putSounding]; split <;> simp
@[simp] theorem putSounding_clockUnset (c : Carriage) (s : State) : (putSounding c s).host.clockUnset = s.host.clockUnset := by
  simp only [putSounding]; split <;> simp
@[simp] theorem putSounding_sdo (c : Carriage) (s : State) : (putSounding c s).host.sdo = s.host.sdo := by
  simp only [putSounding]; split <;> simp
@[simp] theorem putSounding_ignoring (c : Carriage) (s : State) : (putSounding c s).host.ignoring = s.host.ignoring := by
  simp only [putSounding]; split <;> simp
@[simp] theorem answered_inReset (c : Carriage) (s : State) : (answered c s).inReset = s.inReset := by
  simp only [answered]; (repeat' split) <;> simp
@[simp] theorem answered_ports (c : Carriage) (s : State) : (answered c s).ports = s.ports := by
  simp only [answered]; (repeat' split) <;> simp
@[simp] theorem answered_powerQueue (c : Carriage) (s : State) : (answered c s).powerQueue = s.powerQueue := by
  simp only [answered]; (repeat' split) <;> simp
@[simp] theorem answered_bus (c : Carriage) (s : State) : (answered c s).bus = s.bus := by
  simp only [answered]; (repeat' split) <;> simp
@[simp] theorem answered_selector (c : Carriage) (s : State) : (answered c s).selector = s.selector := by
  simp only [answered]; (repeat' split) <;> simp
@[simp] theorem answered_ratings (c : Carriage) (s : State) : (answered c s).ratings = s.ratings := by
  simp only [answered]; (repeat' split) <;> simp
@[simp] theorem answered_lastFlow (c : Carriage) (s : State) : (answered c s).lastFlow = s.lastFlow := by
  simp only [answered]; (repeat' split) <;> simp
@[simp] theorem answered_watches (c : Carriage) (s : State) : (answered c s).watches = s.watches := by
  simp only [answered]; (repeat' split) <;> simp
@[simp] theorem answered_freeDraws (c : Carriage) (s : State) : (answered c s).freeDraws = s.freeDraws := by
  simp only [answered]; (repeat' split) <;> simp
@[simp] theorem answered_pending (c : Carriage) (s : State) : (answered c s).pending = s.pending := by
  simp only [answered]; (repeat' split) <;> simp
@[simp] theorem answered_reception (c : Carriage) (s : State) : (answered c s).host.reception = s.host.reception := by
  simp only [answered]; (repeat' split) <;> simp
@[simp] theorem answered_buffer (c : Carriage) (s : State) : (answered c s).host.buffer = s.host.buffer := by
  simp only [answered]; (repeat' split) <;> simp
@[simp] theorem answered_time (c : Carriage) (s : State) : (answered c s).host.time = s.host.time := by
  simp only [answered]; (repeat' split) <;> simp
@[simp] theorem answered_clockUnset (c : Carriage) (s : State) : (answered c s).host.clockUnset = s.host.clockUnset := by
  simp only [answered]; (repeat' split) <;> simp
@[simp] theorem answered_sdo (c : Carriage) (s : State) : (answered c s).host.sdo = s.host.sdo := by
  simp only [answered]; (repeat' split) <;> simp
@[simp] theorem answered_ignoring (c : Carriage) (s : State) : (answered c s).host.ignoring = s.host.ignoring := by
  simp only [answered]; (repeat' split) <;> simp

/-! ## The watch unit (R102, R117) -/

@[simp] theorem putWatches_inReset (u : WatchUnit) (s : State) : (putWatches u s).inReset = s.inReset := by
  simp only [putWatches]; split <;> simp
@[simp] theorem putWatches_ports (u : WatchUnit) (s : State) : (putWatches u s).ports = s.ports := by
  simp only [putWatches]; split <;> simp
@[simp] theorem putWatches_powerQueue (u : WatchUnit) (s : State) : (putWatches u s).powerQueue = s.powerQueue := by
  simp only [putWatches]; split <;> simp
@[simp] theorem putWatches_bus (u : WatchUnit) (s : State) : (putWatches u s).bus = s.bus := by
  simp only [putWatches]; split <;> simp
@[simp] theorem putWatches_selector (u : WatchUnit) (s : State) : (putWatches u s).selector = s.selector := by
  simp only [putWatches]; split <;> simp
@[simp] theorem putWatches_ratings (u : WatchUnit) (s : State) : (putWatches u s).ratings = s.ratings := by
  simp only [putWatches]; split <;> simp
@[simp] theorem putWatches_lastFlow (u : WatchUnit) (s : State) : (putWatches u s).lastFlow = s.lastFlow := by
  simp only [putWatches]; split <;> simp
@[simp] theorem putWatches_freeDraws (u : WatchUnit) (s : State) : (putWatches u s).freeDraws = s.freeDraws := by
  simp only [putWatches]; split <;> simp
@[simp] theorem putWatches_pending (u : WatchUnit) (s : State) : (putWatches u s).pending = s.pending := by
  simp only [putWatches]; split <;> simp
@[simp] theorem putWatches_reception (u : WatchUnit) (s : State) : (putWatches u s).host.reception = s.host.reception := by
  simp only [putWatches]; split <;> simp
@[simp] theorem putWatches_buffer (u : WatchUnit) (s : State) : (putWatches u s).host.buffer = s.host.buffer := by
  simp only [putWatches]; split <;> simp
@[simp] theorem putWatches_time (u : WatchUnit) (s : State) : (putWatches u s).host.time = s.host.time := by
  simp only [putWatches]; split <;> simp
@[simp] theorem putWatches_clockUnset (u : WatchUnit) (s : State) : (putWatches u s).host.clockUnset = s.host.clockUnset := by
  simp only [putWatches]; split <;> simp
@[simp] theorem putWatches_sdo (u : WatchUnit) (s : State) : (putWatches u s).host.sdo = s.host.sdo := by
  simp only [putWatches]; split <;> simp
@[simp] theorem putWatches_ignoring (u : WatchUnit) (s : State) : (putWatches u s).host.ignoring = s.host.ignoring := by
  simp only [putWatches]; split <;> simp
@[simp] theorem putWatch_inReset (k : Fin 24) (w : Option Watch) (s : State) : (putWatch k w s).inReset = s.inReset := by
  simp [putWatch]
@[simp] theorem putWatch_ports (k : Fin 24) (w : Option Watch) (s : State) : (putWatch k w s).ports = s.ports := by
  simp [putWatch]
@[simp] theorem putWatch_powerQueue (k : Fin 24) (w : Option Watch) (s : State) : (putWatch k w s).powerQueue = s.powerQueue := by
  simp [putWatch]
@[simp] theorem putWatch_bus (k : Fin 24) (w : Option Watch) (s : State) : (putWatch k w s).bus = s.bus := by
  simp [putWatch]
@[simp] theorem putWatch_selector (k : Fin 24) (w : Option Watch) (s : State) : (putWatch k w s).selector = s.selector := by
  simp [putWatch]
@[simp] theorem putWatch_ratings (k : Fin 24) (w : Option Watch) (s : State) : (putWatch k w s).ratings = s.ratings := by
  simp [putWatch]
@[simp] theorem putWatch_lastFlow (k : Fin 24) (w : Option Watch) (s : State) : (putWatch k w s).lastFlow = s.lastFlow := by
  simp [putWatch]
@[simp] theorem putWatch_freeDraws (k : Fin 24) (w : Option Watch) (s : State) : (putWatch k w s).freeDraws = s.freeDraws := by
  simp [putWatch]
@[simp] theorem putWatch_pending (k : Fin 24) (w : Option Watch) (s : State) : (putWatch k w s).pending = s.pending := by
  simp [putWatch]
@[simp] theorem putWatch_reception (k : Fin 24) (w : Option Watch) (s : State) : (putWatch k w s).host.reception = s.host.reception := by
  simp [putWatch]
@[simp] theorem putWatch_buffer (k : Fin 24) (w : Option Watch) (s : State) : (putWatch k w s).host.buffer = s.host.buffer := by
  simp [putWatch]
@[simp] theorem putWatch_time (k : Fin 24) (w : Option Watch) (s : State) : (putWatch k w s).host.time = s.host.time := by
  simp [putWatch]
@[simp] theorem putWatch_clockUnset (k : Fin 24) (w : Option Watch) (s : State) : (putWatch k w s).host.clockUnset = s.host.clockUnset := by
  simp [putWatch]
@[simp] theorem putWatch_sdo (k : Fin 24) (w : Option Watch) (s : State) : (putWatch k w s).host.sdo = s.host.sdo := by
  simp [putWatch]
@[simp] theorem putWatch_ignoring (k : Fin 24) (w : Option Watch) (s : State) : (putWatch k w s).host.ignoring = s.host.ignoring := by
  simp [putWatch]
@[simp] theorem watchesTake_inReset (x : FlowSample) (s : State) : (watchesTake x s).inReset = s.inReset := by
  simp [watchesTake]
@[simp] theorem watchesTake_ports (x : FlowSample) (s : State) : (watchesTake x s).ports = s.ports := by
  simp [watchesTake]
@[simp] theorem watchesTake_powerQueue (x : FlowSample) (s : State) : (watchesTake x s).powerQueue = s.powerQueue := by
  simp [watchesTake]
@[simp] theorem watchesTake_bus (x : FlowSample) (s : State) : (watchesTake x s).bus = s.bus := by
  simp [watchesTake]
@[simp] theorem watchesTake_selector (x : FlowSample) (s : State) : (watchesTake x s).selector = s.selector := by
  simp [watchesTake]
@[simp] theorem watchesTake_ratings (x : FlowSample) (s : State) : (watchesTake x s).ratings = s.ratings := by
  simp [watchesTake]
@[simp] theorem watchesTake_lastFlow (x : FlowSample) (s : State) : (watchesTake x s).lastFlow = s.lastFlow := by
  simp [watchesTake]
@[simp] theorem watchesTake_freeDraws (x : FlowSample) (s : State) : (watchesTake x s).freeDraws = s.freeDraws := by
  simp [watchesTake]
@[simp] theorem watchesTake_pending (x : FlowSample) (s : State) : (watchesTake x s).pending = s.pending := by
  simp [watchesTake]
@[simp] theorem watchesTake_reception (x : FlowSample) (s : State) : (watchesTake x s).host.reception = s.host.reception := by
  simp [watchesTake]
@[simp] theorem watchesTake_buffer (x : FlowSample) (s : State) : (watchesTake x s).host.buffer = s.host.buffer := by
  simp [watchesTake]
@[simp] theorem watchesTake_time (x : FlowSample) (s : State) : (watchesTake x s).host.time = s.host.time := by
  simp [watchesTake]
@[simp] theorem watchesTake_clockUnset (x : FlowSample) (s : State) : (watchesTake x s).host.clockUnset = s.host.clockUnset := by
  simp [watchesTake]
@[simp] theorem watchesTake_sdo (x : FlowSample) (s : State) : (watchesTake x s).host.sdo = s.host.sdo := by
  simp [watchesTake]
@[simp] theorem watchesTake_ignoring (x : FlowSample) (s : State) : (watchesTake x s).host.ignoring = s.host.ignoring := by
  simp [watchesTake]

/-! ## The close (R34, R67, R86, R94) -/

@[simp] theorem evaluateRatings_inReset (t : Nat) (s : State) : (evaluateRatings t s).inReset = s.inReset := by
  simp [evaluateRatings]
@[simp] theorem evaluateRatings_ports (t : Nat) (s : State) : (evaluateRatings t s).ports = s.ports := by
  simp [evaluateRatings]
@[simp] theorem evaluateRatings_powerQueue (t : Nat) (s : State) : (evaluateRatings t s).powerQueue = s.powerQueue := by
  simp [evaluateRatings]
@[simp] theorem evaluateRatings_bus (t : Nat) (s : State) : (evaluateRatings t s).bus = s.bus := by
  simp [evaluateRatings]
@[simp] theorem evaluateRatings_selector (t : Nat) (s : State) : (evaluateRatings t s).selector = s.selector := by
  simp [evaluateRatings]
@[simp] theorem evaluateRatings_lastFlow (t : Nat) (s : State) : (evaluateRatings t s).lastFlow = s.lastFlow := by
  simp [evaluateRatings]
@[simp] theorem evaluateRatings_watches (t : Nat) (s : State) : (evaluateRatings t s).watches = s.watches := by
  simp [evaluateRatings]
@[simp] theorem evaluateRatings_carriage (t : Nat) (s : State) : (evaluateRatings t s).carriage = s.carriage := by
  simp [evaluateRatings]
@[simp] theorem evaluateRatings_meter (t : Nat) (s : State) : (evaluateRatings t s).meter = s.meter := by
  simp [evaluateRatings]
@[simp] theorem evaluateRatings_gaugings (t : Nat) (s : State) : (evaluateRatings t s).gaugings = s.gaugings := by
  simp [evaluateRatings]
@[simp] theorem evaluateRatings_freeDraws (t : Nat) (s : State) : (evaluateRatings t s).freeDraws = s.freeDraws := by
  simp [evaluateRatings]
@[simp] theorem evaluateRatings_pending (t : Nat) (s : State) : (evaluateRatings t s).pending = s.pending := by
  simp [evaluateRatings]
@[simp] theorem evaluateRatings_reception (t : Nat) (s : State) : (evaluateRatings t s).host.reception = s.host.reception := by
  simp [evaluateRatings]
@[simp] theorem evaluateRatings_buffer (t : Nat) (s : State) : (evaluateRatings t s).host.buffer = s.host.buffer := by
  simp [evaluateRatings]
@[simp] theorem evaluateRatings_time (t : Nat) (s : State) : (evaluateRatings t s).host.time = s.host.time := by
  simp [evaluateRatings]
@[simp] theorem evaluateRatings_clockUnset (t : Nat) (s : State) : (evaluateRatings t s).host.clockUnset = s.host.clockUnset := by
  simp [evaluateRatings]
@[simp] theorem evaluateRatings_sdo (t : Nat) (s : State) : (evaluateRatings t s).host.sdo = s.host.sdo := by
  simp [evaluateRatings]
@[simp] theorem evaluateRatings_ignoring (t : Nat) (s : State) : (evaluateRatings t s).host.ignoring = s.host.ignoring := by
  simp [evaluateRatings]
@[simp] theorem publishFlow_inReset (x : FlowSample) (s : State) : (publishFlow x s).inReset = s.inReset := by
  simp [publishFlow]
@[simp] theorem publishFlow_ports (x : FlowSample) (s : State) : (publishFlow x s).ports = s.ports := by
  simp [publishFlow]
@[simp] theorem publishFlow_powerQueue (x : FlowSample) (s : State) : (publishFlow x s).powerQueue = s.powerQueue := by
  simp [publishFlow]
@[simp] theorem publishFlow_bus (x : FlowSample) (s : State) : (publishFlow x s).bus = s.bus := by
  simp [publishFlow]
@[simp] theorem publishFlow_selector (x : FlowSample) (s : State) : (publishFlow x s).selector = s.selector := by
  simp [publishFlow]
@[simp] theorem publishFlow_ratings (x : FlowSample) (s : State) : (publishFlow x s).ratings = s.ratings := by
  simp [publishFlow]
@[simp] theorem publishFlow_freeDraws (x : FlowSample) (s : State) : (publishFlow x s).freeDraws = s.freeDraws := by
  simp [publishFlow]
@[simp] theorem publishFlow_pending (x : FlowSample) (s : State) : (publishFlow x s).pending = s.pending := by
  simp [publishFlow]
@[simp] theorem publishFlow_reception (x : FlowSample) (s : State) : (publishFlow x s).host.reception = s.host.reception := by
  simp [publishFlow]
@[simp] theorem publishFlow_buffer (x : FlowSample) (s : State) : (publishFlow x s).host.buffer = s.host.buffer := by
  simp [publishFlow]
@[simp] theorem publishFlow_time (x : FlowSample) (s : State) : (publishFlow x s).host.time = s.host.time := by
  simp [publishFlow]
@[simp] theorem publishFlow_clockUnset (x : FlowSample) (s : State) : (publishFlow x s).host.clockUnset = s.host.clockUnset := by
  simp [publishFlow]
@[simp] theorem publishFlow_sdo (x : FlowSample) (s : State) : (publishFlow x s).host.sdo = s.host.sdo := by
  simp [publishFlow]
@[simp] theorem publishFlow_ignoring (x : FlowSample) (s : State) : (publishFlow x s).host.ignoring = s.host.ignoring := by
  simp [publishFlow]
@[simp] theorem publishSample_inReset (x : StageSample) (s : State) : (publishSample x s).inReset = s.inReset := by
  simp [publishSample]
@[simp] theorem publishSample_ports (x : StageSample) (s : State) : (publishSample x s).ports = s.ports := by
  simp [publishSample]
@[simp] theorem publishSample_powerQueue (x : StageSample) (s : State) : (publishSample x s).powerQueue = s.powerQueue := by
  simp [publishSample]
@[simp] theorem publishSample_bus (x : StageSample) (s : State) : (publishSample x s).bus = s.bus := by
  simp [publishSample]
@[simp] theorem publishSample_selector (x : StageSample) (s : State) : (publishSample x s).selector = s.selector := by
  simp [publishSample]
@[simp] theorem publishSample_freeDraws (x : StageSample) (s : State) : (publishSample x s).freeDraws = s.freeDraws := by
  simp [publishSample]
@[simp] theorem publishSample_pending (x : StageSample) (s : State) : (publishSample x s).pending = s.pending := by
  simp [publishSample]
@[simp] theorem publishSample_reception (x : StageSample) (s : State) : (publishSample x s).host.reception = s.host.reception := by
  simp [publishSample]
@[simp] theorem publishSample_buffer (x : StageSample) (s : State) : (publishSample x s).host.buffer = s.host.buffer := by
  simp [publishSample]
@[simp] theorem publishSample_time (x : StageSample) (s : State) : (publishSample x s).host.time = s.host.time := by
  simp [publishSample]
@[simp] theorem publishSample_clockUnset (x : StageSample) (s : State) : (publishSample x s).host.clockUnset = s.host.clockUnset := by
  simp [publishSample]
@[simp] theorem publishSample_sdo (x : StageSample) (s : State) : (publishSample x s).host.sdo = s.host.sdo := by
  simp [publishSample]
@[simp] theorem publishSample_ignoring (x : StageSample) (s : State) : (publishSample x s).host.ignoring = s.host.ignoring := by
  simp [publishSample]
@[simp] theorem handRound_inReset (l : List ReadingRecord) (s : State) : (handRound l s).inReset = s.inReset := by
  simp only [handRound]; split <;> simp
@[simp] theorem handRound_ports (l : List ReadingRecord) (s : State) : (handRound l s).ports = s.ports := by
  simp only [handRound]; split <;> simp
@[simp] theorem handRound_powerQueue (l : List ReadingRecord) (s : State) : (handRound l s).powerQueue = s.powerQueue := by
  simp only [handRound]; split <;> simp
@[simp] theorem handRound_bus (l : List ReadingRecord) (s : State) : (handRound l s).bus = s.bus := by
  simp only [handRound]; split <;> simp
@[simp] theorem handRound_freeDraws (l : List ReadingRecord) (s : State) : (handRound l s).freeDraws = s.freeDraws := by
  simp only [handRound]; split <;> simp
@[simp] theorem handRound_pending (l : List ReadingRecord) (s : State) : (handRound l s).pending = s.pending := by
  simp only [handRound]; split <;> simp
@[simp] theorem handRound_reception (l : List ReadingRecord) (s : State) : (handRound l s).host.reception = s.host.reception := by
  simp only [handRound]; split <;> simp
@[simp] theorem handRound_buffer (l : List ReadingRecord) (s : State) : (handRound l s).host.buffer = s.host.buffer := by
  simp only [handRound]; split <;> simp
@[simp] theorem handRound_time (l : List ReadingRecord) (s : State) : (handRound l s).host.time = s.host.time := by
  simp only [handRound]; split <;> simp
@[simp] theorem handRound_clockUnset (l : List ReadingRecord) (s : State) : (handRound l s).host.clockUnset = s.host.clockUnset := by
  simp only [handRound]; split <;> simp
@[simp] theorem handRound_sdo (l : List ReadingRecord) (s : State) : (handRound l s).host.sdo = s.host.sdo := by
  simp only [handRound]; split <;> simp
@[simp] theorem handRound_ignoring (l : List ReadingRecord) (s : State) : (handRound l s).host.ignoring = s.host.ignoring := by
  simp only [handRound]; split <;> simp

/-! ## The line (R31, R33, R34) -/

@[simp] theorem freeLine_inReset (s : State) : (freeLine s).inReset = s.inReset := by
  simp [freeLine]
@[simp] theorem freeLine_ports (s : State) : (freeLine s).ports = s.ports := by
  simp [freeLine]
@[simp] theorem freeLine_powerQueue (s : State) : (freeLine s).powerQueue = s.powerQueue := by
  simp [freeLine]
@[simp] theorem freeLine_freeDraws (s : State) : (freeLine s).freeDraws = s.freeDraws := by
  simp [freeLine]
@[simp] theorem freeLine_pending (s : State) : (freeLine s).pending = s.pending := by
  simp [freeLine]
@[simp] theorem freeLine_reception (s : State) : (freeLine s).host.reception = s.host.reception := by
  simp [freeLine]
@[simp] theorem freeLine_buffer (s : State) : (freeLine s).host.buffer = s.host.buffer := by
  simp [freeLine]
@[simp] theorem freeLine_time (s : State) : (freeLine s).host.time = s.host.time := by
  simp [freeLine]
@[simp] theorem freeLine_clockUnset (s : State) : (freeLine s).host.clockUnset = s.host.clockUnset := by
  simp [freeLine]
@[simp] theorem freeLine_sdo (s : State) : (freeLine s).host.sdo = s.host.sdo := by
  simp [freeLine]
@[simp] theorem freeLine_ignoring (s : State) : (freeLine s).host.ignoring = s.host.ignoring := by
  simp [freeLine]
@[simp] theorem grantFrom_inReset (l : List LineUser) (s : State) : (grantFrom l s).inReset = s.inReset := by
  induction l generalizing s with
  | nil => simp [grantFrom]
  | cons u l ih => cases u <;> simp only [grantFrom] <;> (repeat' split) <;> simp [ih]
@[simp] theorem grantFrom_ports (l : List LineUser) (s : State) : (grantFrom l s).ports = s.ports := by
  induction l generalizing s with
  | nil => simp [grantFrom]
  | cons u l ih => cases u <;> simp only [grantFrom] <;> (repeat' split) <;> simp [ih]
@[simp] theorem grantFrom_powerQueue (l : List LineUser) (s : State) : (grantFrom l s).powerQueue = s.powerQueue := by
  induction l generalizing s with
  | nil => simp [grantFrom]
  | cons u l ih => cases u <;> simp only [grantFrom] <;> (repeat' split) <;> simp [ih]
@[simp] theorem grantFrom_freeDraws (l : List LineUser) (s : State) : (grantFrom l s).freeDraws = s.freeDraws := by
  induction l generalizing s with
  | nil => simp [grantFrom]
  | cons u l ih => cases u <;> simp only [grantFrom] <;> (repeat' split) <;> simp [ih]
@[simp] theorem grantFrom_pending (l : List LineUser) (s : State) : (grantFrom l s).pending = s.pending := by
  induction l generalizing s with
  | nil => simp [grantFrom]
  | cons u l ih => cases u <;> simp only [grantFrom] <;> (repeat' split) <;> simp [ih]
@[simp] theorem grantFrom_reception (l : List LineUser) (s : State) : (grantFrom l s).host.reception = s.host.reception := by
  induction l generalizing s with
  | nil => simp [grantFrom]
  | cons u l ih => cases u <;> simp only [grantFrom] <;> (repeat' split) <;> simp [ih]
@[simp] theorem grantFrom_buffer (l : List LineUser) (s : State) : (grantFrom l s).host.buffer = s.host.buffer := by
  induction l generalizing s with
  | nil => simp [grantFrom]
  | cons u l ih => cases u <;> simp only [grantFrom] <;> (repeat' split) <;> simp [ih]
@[simp] theorem grantFrom_time (l : List LineUser) (s : State) : (grantFrom l s).host.time = s.host.time := by
  induction l generalizing s with
  | nil => simp [grantFrom]
  | cons u l ih => cases u <;> simp only [grantFrom] <;> (repeat' split) <;> simp [ih]
@[simp] theorem grantFrom_clockUnset (l : List LineUser) (s : State) : (grantFrom l s).host.clockUnset = s.host.clockUnset := by
  induction l generalizing s with
  | nil => simp [grantFrom]
  | cons u l ih => cases u <;> simp only [grantFrom] <;> (repeat' split) <;> simp [ih]
@[simp] theorem grantFrom_sdo (l : List LineUser) (s : State) : (grantFrom l s).host.sdo = s.host.sdo := by
  induction l generalizing s with
  | nil => simp [grantFrom]
  | cons u l ih => cases u <;> simp only [grantFrom] <;> (repeat' split) <;> simp [ih]
@[simp] theorem grantFrom_ignoring (l : List LineUser) (s : State) : (grantFrom l s).host.ignoring = s.host.ignoring := by
  induction l generalizing s with
  | nil => simp [grantFrom]
  | cons u l ih => cases u <;> simp only [grantFrom] <;> (repeat' split) <;> simp [ih]
@[simp] theorem serveLine_inReset (s : State) : (serveLine s).inReset = s.inReset := by
  simp only [serveLine]; (repeat' split) <;> simp
@[simp] theorem serveLine_ports (s : State) : (serveLine s).ports = s.ports := by
  simp only [serveLine]; (repeat' split) <;> simp
@[simp] theorem serveLine_powerQueue (s : State) : (serveLine s).powerQueue = s.powerQueue := by
  simp only [serveLine]; (repeat' split) <;> simp
@[simp] theorem serveLine_freeDraws (s : State) : (serveLine s).freeDraws = s.freeDraws := by
  simp only [serveLine]; (repeat' split) <;> simp
@[simp] theorem serveLine_pending (s : State) : (serveLine s).pending = s.pending := by
  simp only [serveLine]; (repeat' split) <;> simp
@[simp] theorem serveLine_reception (s : State) : (serveLine s).host.reception = s.host.reception := by
  simp only [serveLine]; (repeat' split) <;> simp
@[simp] theorem serveLine_buffer (s : State) : (serveLine s).host.buffer = s.host.buffer := by
  simp only [serveLine]; (repeat' split) <;> simp
@[simp] theorem serveLine_time (s : State) : (serveLine s).host.time = s.host.time := by
  simp only [serveLine]; (repeat' split) <;> simp
@[simp] theorem serveLine_clockUnset (s : State) : (serveLine s).host.clockUnset = s.host.clockUnset := by
  simp only [serveLine]; (repeat' split) <;> simp
@[simp] theorem serveLine_sdo (s : State) : (serveLine s).host.sdo = s.host.sdo := by
  simp only [serveLine]; (repeat' split) <;> simp
@[simp] theorem serveLine_ignoring (s : State) : (serveLine s).host.ignoring = s.host.ignoring := by
  simp only [serveLine]; (repeat' split) <;> simp
@[simp] theorem placeUser_inReset (u : LineUser) (s : State) : (placeUser u s).inReset = s.inReset := by
  simp only [placeUser]; (repeat' split) <;> simp
@[simp] theorem placeUser_ports (u : LineUser) (s : State) : (placeUser u s).ports = s.ports := by
  simp only [placeUser]; (repeat' split) <;> simp
@[simp] theorem placeUser_powerQueue (u : LineUser) (s : State) : (placeUser u s).powerQueue = s.powerQueue := by
  simp only [placeUser]; (repeat' split) <;> simp
@[simp] theorem placeUser_freeDraws (u : LineUser) (s : State) : (placeUser u s).freeDraws = s.freeDraws := by
  simp only [placeUser]; (repeat' split) <;> simp
@[simp] theorem placeUser_pending (u : LineUser) (s : State) : (placeUser u s).pending = s.pending := by
  simp only [placeUser]; (repeat' split) <;> simp
@[simp] theorem placeUser_reception (u : LineUser) (s : State) : (placeUser u s).host.reception = s.host.reception := by
  simp only [placeUser]; (repeat' split) <;> simp
@[simp] theorem placeUser_buffer (u : LineUser) (s : State) : (placeUser u s).host.buffer = s.host.buffer := by
  simp only [placeUser]; (repeat' split) <;> simp
@[simp] theorem placeUser_time (u : LineUser) (s : State) : (placeUser u s).host.time = s.host.time := by
  simp only [placeUser]; (repeat' split) <;> simp
@[simp] theorem placeUser_clockUnset (u : LineUser) (s : State) : (placeUser u s).host.clockUnset = s.host.clockUnset := by
  simp only [placeUser]; (repeat' split) <;> simp
@[simp] theorem placeUser_sdo (u : LineUser) (s : State) : (placeUser u s).host.sdo = s.host.sdo := by
  simp only [placeUser]; (repeat' split) <;> simp
@[simp] theorem placeUser_ignoring (u : LineUser) (s : State) : (placeUser u s).host.ignoring = s.host.ignoring := by
  simp only [placeUser]; (repeat' split) <;> simp
@[simp] theorem closeRound_inReset (s : State) : (closeRound s).inReset = s.inReset := by
  simp [closeRound]
@[simp] theorem closeRound_ports (s : State) : (closeRound s).ports = s.ports := by
  simp [closeRound]
@[simp] theorem closeRound_powerQueue (s : State) : (closeRound s).powerQueue = s.powerQueue := by
  simp [closeRound]
@[simp] theorem closeRound_freeDraws (s : State) : (closeRound s).freeDraws = s.freeDraws := by
  simp [closeRound]
@[simp] theorem closeRound_pending (s : State) : (closeRound s).pending = s.pending := by
  simp [closeRound]
@[simp] theorem closeRound_reception (s : State) : (closeRound s).host.reception = s.host.reception := by
  simp [closeRound]
@[simp] theorem closeRound_buffer (s : State) : (closeRound s).host.buffer = s.host.buffer := by
  simp [closeRound]
@[simp] theorem closeRound_time (s : State) : (closeRound s).host.time = s.host.time := by
  simp [closeRound]
@[simp] theorem closeRound_clockUnset (s : State) : (closeRound s).host.clockUnset = s.host.clockUnset := by
  simp [closeRound]
@[simp] theorem closeRound_sdo (s : State) : (closeRound s).host.sdo = s.host.sdo := by
  simp [closeRound]
@[simp] theorem closeRound_ignoring (s : State) : (closeRound s).host.ignoring = s.host.ignoring := by
  simp [closeRound]
@[simp] theorem advanceRound_inReset (l : List (Fin 4)) (s : State) : (advanceRound l s).inReset = s.inReset := by
  simp only [advanceRound]; (repeat' split) <;> simp
@[simp] theorem advanceRound_ports (l : List (Fin 4)) (s : State) : (advanceRound l s).ports = s.ports := by
  simp only [advanceRound]; (repeat' split) <;> simp
@[simp] theorem advanceRound_powerQueue (l : List (Fin 4)) (s : State) : (advanceRound l s).powerQueue = s.powerQueue := by
  simp only [advanceRound]; (repeat' split) <;> simp
@[simp] theorem advanceRound_freeDraws (l : List (Fin 4)) (s : State) : (advanceRound l s).freeDraws = s.freeDraws := by
  simp only [advanceRound]; (repeat' split) <;> simp
@[simp] theorem advanceRound_pending (l : List (Fin 4)) (s : State) : (advanceRound l s).pending = s.pending := by
  simp only [advanceRound]; (repeat' split) <;> simp
@[simp] theorem advanceRound_reception (l : List (Fin 4)) (s : State) : (advanceRound l s).host.reception = s.host.reception := by
  simp only [advanceRound]; (repeat' split) <;> simp
@[simp] theorem advanceRound_buffer (l : List (Fin 4)) (s : State) : (advanceRound l s).host.buffer = s.host.buffer := by
  simp only [advanceRound]; (repeat' split) <;> simp
@[simp] theorem advanceRound_time (l : List (Fin 4)) (s : State) : (advanceRound l s).host.time = s.host.time := by
  simp only [advanceRound]; (repeat' split) <;> simp
@[simp] theorem advanceRound_clockUnset (l : List (Fin 4)) (s : State) : (advanceRound l s).host.clockUnset = s.host.clockUnset := by
  simp only [advanceRound]; (repeat' split) <;> simp
@[simp] theorem advanceRound_sdo (l : List (Fin 4)) (s : State) : (advanceRound l s).host.sdo = s.host.sdo := by
  simp only [advanceRound]; (repeat' split) <;> simp
@[simp] theorem advanceRound_ignoring (l : List (Fin 4)) (s : State) : (advanceRound l s).host.ignoring = s.host.ignoring := by
  simp only [advanceRound]; (repeat' split) <;> simp
@[simp] theorem endUser_inReset (s : State) : (endUser s).inReset = s.inReset := by
  simp [endUser]
@[simp] theorem endUser_ports (s : State) : (endUser s).ports = s.ports := by
  simp [endUser]
@[simp] theorem endUser_powerQueue (s : State) : (endUser s).powerQueue = s.powerQueue := by
  simp [endUser]
@[simp] theorem endUser_freeDraws (s : State) : (endUser s).freeDraws = s.freeDraws := by
  simp [endUser]
@[simp] theorem endUser_pending (s : State) : (endUser s).pending = s.pending := by
  simp [endUser]
@[simp] theorem endUser_reception (s : State) : (endUser s).host.reception = s.host.reception := by
  simp [endUser]
@[simp] theorem endUser_buffer (s : State) : (endUser s).host.buffer = s.host.buffer := by
  simp [endUser]
@[simp] theorem endUser_time (s : State) : (endUser s).host.time = s.host.time := by
  simp [endUser]
@[simp] theorem endUser_clockUnset (s : State) : (endUser s).host.clockUnset = s.host.clockUnset := by
  simp [endUser]
@[simp] theorem endUser_sdo (s : State) : (endUser s).host.sdo = s.host.sdo := by
  simp [endUser]
@[simp] theorem endUser_ignoring (s : State) : (endUser s).host.ignoring = s.host.ignoring := by
  simp [endUser]
@[simp] theorem zeroEnds_inReset (p : Fin 4) (o : ZeroOutcome) (s : State) : (zeroEnds p o s).inReset = s.inReset := by
  simp [zeroEnds]
@[simp] theorem zeroEnds_ports (p : Fin 4) (o : ZeroOutcome) (s : State) : (zeroEnds p o s).ports = s.ports := by
  simp [zeroEnds]
@[simp] theorem zeroEnds_powerQueue (p : Fin 4) (o : ZeroOutcome) (s : State) : (zeroEnds p o s).powerQueue = s.powerQueue := by
  simp [zeroEnds]
@[simp] theorem zeroEnds_selector (p : Fin 4) (o : ZeroOutcome) (s : State) : (zeroEnds p o s).selector = s.selector := by
  simp [zeroEnds]
@[simp] theorem zeroEnds_ratings (p : Fin 4) (o : ZeroOutcome) (s : State) : (zeroEnds p o s).ratings = s.ratings := by
  simp [zeroEnds]
@[simp] theorem zeroEnds_lastFlow (p : Fin 4) (o : ZeroOutcome) (s : State) : (zeroEnds p o s).lastFlow = s.lastFlow := by
  simp [zeroEnds]
@[simp] theorem zeroEnds_watches (p : Fin 4) (o : ZeroOutcome) (s : State) : (zeroEnds p o s).watches = s.watches := by
  simp [zeroEnds]
@[simp] theorem zeroEnds_carriage (p : Fin 4) (o : ZeroOutcome) (s : State) : (zeroEnds p o s).carriage = s.carriage := by
  simp [zeroEnds]
@[simp] theorem zeroEnds_meter (p : Fin 4) (o : ZeroOutcome) (s : State) : (zeroEnds p o s).meter = s.meter := by
  simp [zeroEnds]
@[simp] theorem zeroEnds_gaugings (p : Fin 4) (o : ZeroOutcome) (s : State) : (zeroEnds p o s).gaugings = s.gaugings := by
  simp [zeroEnds]
@[simp] theorem zeroEnds_freeDraws (p : Fin 4) (o : ZeroOutcome) (s : State) : (zeroEnds p o s).freeDraws = s.freeDraws := by
  simp [zeroEnds]
@[simp] theorem zeroEnds_pending (p : Fin 4) (o : ZeroOutcome) (s : State) : (zeroEnds p o s).pending = s.pending := by
  simp [zeroEnds]
@[simp] theorem zeroEnds_reception (p : Fin 4) (o : ZeroOutcome) (s : State) : (zeroEnds p o s).host.reception = s.host.reception := by
  simp [zeroEnds]
@[simp] theorem zeroEnds_buffer (p : Fin 4) (o : ZeroOutcome) (s : State) : (zeroEnds p o s).host.buffer = s.host.buffer := by
  simp [zeroEnds]
@[simp] theorem zeroEnds_time (p : Fin 4) (o : ZeroOutcome) (s : State) : (zeroEnds p o s).host.time = s.host.time := by
  simp [zeroEnds]
@[simp] theorem zeroEnds_clockUnset (p : Fin 4) (o : ZeroOutcome) (s : State) : (zeroEnds p o s).host.clockUnset = s.host.clockUnset := by
  simp [zeroEnds]
@[simp] theorem zeroEnds_sdo (p : Fin 4) (o : ZeroOutcome) (s : State) : (zeroEnds p o s).host.sdo = s.host.sdo := by
  simp [zeroEnds]
@[simp] theorem zeroEnds_ignoring (p : Fin 4) (o : ZeroOutcome) (s : State) : (zeroEnds p o s).host.ignoring = s.host.ignoring := by
  simp [zeroEnds]

/-! ## What a port's change of state does elsewhere (R7, R10, R33, R36) -/

@[simp] theorem sequencerTake_inReset (s : State) : (sequencerTake s).inReset = s.inReset := by
  simp only [sequencerTake]; (repeat' split) <;> simp
@[simp] theorem sequencerTake_bus (s : State) : (sequencerTake s).bus = s.bus := by
  simp only [sequencerTake]; (repeat' split) <;> simp
@[simp] theorem sequencerTake_selector (s : State) : (sequencerTake s).selector = s.selector := by
  simp only [sequencerTake]; (repeat' split) <;> simp
@[simp] theorem sequencerTake_ratings (s : State) : (sequencerTake s).ratings = s.ratings := by
  simp only [sequencerTake]; (repeat' split) <;> simp
@[simp] theorem sequencerTake_lastFlow (s : State) : (sequencerTake s).lastFlow = s.lastFlow := by
  simp only [sequencerTake]; (repeat' split) <;> simp
@[simp] theorem sequencerTake_watches (s : State) : (sequencerTake s).watches = s.watches := by
  simp only [sequencerTake]; (repeat' split) <;> simp
@[simp] theorem sequencerTake_carriage (s : State) : (sequencerTake s).carriage = s.carriage := by
  simp only [sequencerTake]; (repeat' split) <;> simp
@[simp] theorem sequencerTake_meter (s : State) : (sequencerTake s).meter = s.meter := by
  simp only [sequencerTake]; (repeat' split) <;> simp
@[simp] theorem sequencerTake_gaugings (s : State) : (sequencerTake s).gaugings = s.gaugings := by
  simp only [sequencerTake]; (repeat' split) <;> simp
@[simp] theorem sequencerTake_freeDraws (s : State) : (sequencerTake s).freeDraws = s.freeDraws := by
  simp only [sequencerTake]; (repeat' split) <;> simp
@[simp] theorem sequencerTake_pending (s : State) : (sequencerTake s).pending = s.pending := by
  simp only [sequencerTake]; (repeat' split) <;> simp
@[simp] theorem sequencerTake_reception (s : State) : (sequencerTake s).host.reception = s.host.reception := by
  simp only [sequencerTake]; (repeat' split) <;> simp
@[simp] theorem sequencerTake_buffer (s : State) : (sequencerTake s).host.buffer = s.host.buffer := by
  simp only [sequencerTake]; (repeat' split) <;> simp
@[simp] theorem sequencerTake_time (s : State) : (sequencerTake s).host.time = s.host.time := by
  simp only [sequencerTake]; (repeat' split) <;> simp
@[simp] theorem sequencerTake_clockUnset (s : State) : (sequencerTake s).host.clockUnset = s.host.clockUnset := by
  simp only [sequencerTake]; (repeat' split) <;> simp
@[simp] theorem sequencerTake_sdo (s : State) : (sequencerTake s).host.sdo = s.host.sdo := by
  simp only [sequencerTake]; (repeat' split) <;> simp
@[simp] theorem sequencerTake_ignoring (s : State) : (sequencerTake s).host.ignoring = s.host.ignoring := by
  simp only [sequencerTake]; (repeat' split) <;> simp
@[simp] theorem leaveQueue_inReset (p : Fin 4) (o n : PortState) (s : State) : (leaveQueue p o n s).inReset = s.inReset := by
  simp only [leaveQueue]; (repeat' split) <;> simp
@[simp] theorem leaveQueue_ports (p : Fin 4) (o n : PortState) (s : State) : (leaveQueue p o n s).ports = s.ports := by
  simp only [leaveQueue]; (repeat' split) <;> simp
@[simp] theorem leaveQueue_bus (p : Fin 4) (o n : PortState) (s : State) : (leaveQueue p o n s).bus = s.bus := by
  simp only [leaveQueue]; (repeat' split) <;> simp
@[simp] theorem leaveQueue_selector (p : Fin 4) (o n : PortState) (s : State) : (leaveQueue p o n s).selector = s.selector := by
  simp only [leaveQueue]; (repeat' split) <;> simp
@[simp] theorem leaveQueue_ratings (p : Fin 4) (o n : PortState) (s : State) : (leaveQueue p o n s).ratings = s.ratings := by
  simp only [leaveQueue]; (repeat' split) <;> simp
@[simp] theorem leaveQueue_lastFlow (p : Fin 4) (o n : PortState) (s : State) : (leaveQueue p o n s).lastFlow = s.lastFlow := by
  simp only [leaveQueue]; (repeat' split) <;> simp
@[simp] theorem leaveQueue_watches (p : Fin 4) (o n : PortState) (s : State) : (leaveQueue p o n s).watches = s.watches := by
  simp only [leaveQueue]; (repeat' split) <;> simp
@[simp] theorem leaveQueue_carriage (p : Fin 4) (o n : PortState) (s : State) : (leaveQueue p o n s).carriage = s.carriage := by
  simp only [leaveQueue]; (repeat' split) <;> simp
@[simp] theorem leaveQueue_meter (p : Fin 4) (o n : PortState) (s : State) : (leaveQueue p o n s).meter = s.meter := by
  simp only [leaveQueue]; (repeat' split) <;> simp
@[simp] theorem leaveQueue_gaugings (p : Fin 4) (o n : PortState) (s : State) : (leaveQueue p o n s).gaugings = s.gaugings := by
  simp only [leaveQueue]; (repeat' split) <;> simp
@[simp] theorem leaveQueue_freeDraws (p : Fin 4) (o n : PortState) (s : State) : (leaveQueue p o n s).freeDraws = s.freeDraws := by
  simp only [leaveQueue]; (repeat' split) <;> simp
@[simp] theorem leaveQueue_pending (p : Fin 4) (o n : PortState) (s : State) : (leaveQueue p o n s).pending = s.pending := by
  simp only [leaveQueue]; (repeat' split) <;> simp
@[simp] theorem leaveQueue_reception (p : Fin 4) (o n : PortState) (s : State) : (leaveQueue p o n s).host.reception = s.host.reception := by
  simp only [leaveQueue]; (repeat' split) <;> simp
@[simp] theorem leaveQueue_buffer (p : Fin 4) (o n : PortState) (s : State) : (leaveQueue p o n s).host.buffer = s.host.buffer := by
  simp only [leaveQueue]; (repeat' split) <;> simp
@[simp] theorem leaveQueue_time (p : Fin 4) (o n : PortState) (s : State) : (leaveQueue p o n s).host.time = s.host.time := by
  simp only [leaveQueue]; (repeat' split) <;> simp
@[simp] theorem leaveQueue_clockUnset (p : Fin 4) (o n : PortState) (s : State) : (leaveQueue p o n s).host.clockUnset = s.host.clockUnset := by
  simp only [leaveQueue]; (repeat' split) <;> simp
@[simp] theorem leaveQueue_sdo (p : Fin 4) (o n : PortState) (s : State) : (leaveQueue p o n s).host.sdo = s.host.sdo := by
  simp only [leaveQueue]; (repeat' split) <;> simp
@[simp] theorem leaveQueue_ignoring (p : Fin 4) (o n : PortState) (s : State) : (leaveQueue p o n s).host.ignoring = s.host.ignoring := by
  simp only [leaveQueue]; (repeat' split) <;> simp
@[simp] theorem dropUser_inReset (u : LineUser) (s : State) : (dropUser u s).inReset = s.inReset := by
  simp only [dropUser]; (repeat' split) <;> simp
@[simp] theorem dropUser_ports (u : LineUser) (s : State) : (dropUser u s).ports = s.ports := by
  simp only [dropUser]; (repeat' split) <;> simp
@[simp] theorem dropUser_powerQueue (u : LineUser) (s : State) : (dropUser u s).powerQueue = s.powerQueue := by
  simp only [dropUser]; (repeat' split) <;> simp
@[simp] theorem dropUser_freeDraws (u : LineUser) (s : State) : (dropUser u s).freeDraws = s.freeDraws := by
  simp only [dropUser]; (repeat' split) <;> simp
@[simp] theorem dropUser_pending (u : LineUser) (s : State) : (dropUser u s).pending = s.pending := by
  simp only [dropUser]; (repeat' split) <;> simp
@[simp] theorem dropUser_reception (u : LineUser) (s : State) : (dropUser u s).host.reception = s.host.reception := by
  simp only [dropUser]; (repeat' split) <;> simp
@[simp] theorem dropUser_buffer (u : LineUser) (s : State) : (dropUser u s).host.buffer = s.host.buffer := by
  simp only [dropUser]; (repeat' split) <;> simp
@[simp] theorem dropUser_time (u : LineUser) (s : State) : (dropUser u s).host.time = s.host.time := by
  simp only [dropUser]; (repeat' split) <;> simp
@[simp] theorem dropUser_clockUnset (u : LineUser) (s : State) : (dropUser u s).host.clockUnset = s.host.clockUnset := by
  simp only [dropUser]; (repeat' split) <;> simp
@[simp] theorem dropUser_sdo (u : LineUser) (s : State) : (dropUser u s).host.sdo = s.host.sdo := by
  simp only [dropUser]; (repeat' split) <;> simp
@[simp] theorem dropUser_ignoring (u : LineUser) (s : State) : (dropUser u s).host.ignoring = s.host.ignoring := by
  simp only [dropUser]; (repeat' split) <;> simp
@[simp] theorem leaveIdent_inReset (p : Fin 4) (o n : PortState) (s : State) : (leaveIdent p o n s).inReset = s.inReset := by
  simp only [leaveIdent]; (repeat' split) <;> simp
@[simp] theorem leaveIdent_ports (p : Fin 4) (o n : PortState) (s : State) : (leaveIdent p o n s).ports = s.ports := by
  simp only [leaveIdent]; (repeat' split) <;> simp
@[simp] theorem leaveIdent_powerQueue (p : Fin 4) (o n : PortState) (s : State) : (leaveIdent p o n s).powerQueue = s.powerQueue := by
  simp only [leaveIdent]; (repeat' split) <;> simp
@[simp] theorem leaveIdent_freeDraws (p : Fin 4) (o n : PortState) (s : State) : (leaveIdent p o n s).freeDraws = s.freeDraws := by
  simp only [leaveIdent]; (repeat' split) <;> simp
@[simp] theorem leaveIdent_pending (p : Fin 4) (o n : PortState) (s : State) : (leaveIdent p o n s).pending = s.pending := by
  simp only [leaveIdent]; (repeat' split) <;> simp
@[simp] theorem leaveIdent_reception (p : Fin 4) (o n : PortState) (s : State) : (leaveIdent p o n s).host.reception = s.host.reception := by
  simp only [leaveIdent]; (repeat' split) <;> simp
@[simp] theorem leaveIdent_buffer (p : Fin 4) (o n : PortState) (s : State) : (leaveIdent p o n s).host.buffer = s.host.buffer := by
  simp only [leaveIdent]; (repeat' split) <;> simp
@[simp] theorem leaveIdent_time (p : Fin 4) (o n : PortState) (s : State) : (leaveIdent p o n s).host.time = s.host.time := by
  simp only [leaveIdent]; (repeat' split) <;> simp
@[simp] theorem leaveIdent_clockUnset (p : Fin 4) (o n : PortState) (s : State) : (leaveIdent p o n s).host.clockUnset = s.host.clockUnset := by
  simp only [leaveIdent]; (repeat' split) <;> simp
@[simp] theorem leaveIdent_sdo (p : Fin 4) (o n : PortState) (s : State) : (leaveIdent p o n s).host.sdo = s.host.sdo := by
  simp only [leaveIdent]; (repeat' split) <;> simp
@[simp] theorem leaveIdent_ignoring (p : Fin 4) (o n : PortState) (s : State) : (leaveIdent p o n s).host.ignoring = s.host.ignoring := by
  simp only [leaveIdent]; (repeat' split) <;> simp
@[simp] theorem leaveZero_inReset (p : Fin 4) (o n : PortState) (s : State) : (leaveZero p o n s).inReset = s.inReset := by
  simp only [leaveZero]; (repeat' split) <;> simp
@[simp] theorem leaveZero_ports (p : Fin 4) (o n : PortState) (s : State) : (leaveZero p o n s).ports = s.ports := by
  simp only [leaveZero]; (repeat' split) <;> simp
@[simp] theorem leaveZero_powerQueue (p : Fin 4) (o n : PortState) (s : State) : (leaveZero p o n s).powerQueue = s.powerQueue := by
  simp only [leaveZero]; (repeat' split) <;> simp
@[simp] theorem leaveZero_freeDraws (p : Fin 4) (o n : PortState) (s : State) : (leaveZero p o n s).freeDraws = s.freeDraws := by
  simp only [leaveZero]; (repeat' split) <;> simp
@[simp] theorem leaveZero_pending (p : Fin 4) (o n : PortState) (s : State) : (leaveZero p o n s).pending = s.pending := by
  simp only [leaveZero]; (repeat' split) <;> simp
@[simp] theorem leaveZero_reception (p : Fin 4) (o n : PortState) (s : State) : (leaveZero p o n s).host.reception = s.host.reception := by
  simp only [leaveZero]; (repeat' split) <;> simp
@[simp] theorem leaveZero_buffer (p : Fin 4) (o n : PortState) (s : State) : (leaveZero p o n s).host.buffer = s.host.buffer := by
  simp only [leaveZero]; (repeat' split) <;> simp
@[simp] theorem leaveZero_time (p : Fin 4) (o n : PortState) (s : State) : (leaveZero p o n s).host.time = s.host.time := by
  simp only [leaveZero]; (repeat' split) <;> simp
@[simp] theorem leaveZero_clockUnset (p : Fin 4) (o n : PortState) (s : State) : (leaveZero p o n s).host.clockUnset = s.host.clockUnset := by
  simp only [leaveZero]; (repeat' split) <;> simp
@[simp] theorem leaveZero_sdo (p : Fin 4) (o n : PortState) (s : State) : (leaveZero p o n s).host.sdo = s.host.sdo := by
  simp only [leaveZero]; (repeat' split) <;> simp
@[simp] theorem leaveZero_ignoring (p : Fin 4) (o n : PortState) (s : State) : (leaveZero p o n s).host.ignoring = s.host.ignoring := by
  simp only [leaveZero]; (repeat' split) <;> simp
@[simp] theorem leavePoll_inReset (p : Fin 4) (o n : PortState) (s : State) : (leavePoll p o n s).inReset = s.inReset := by
  simp only [leavePoll]; (repeat' split) <;> simp
@[simp] theorem leavePoll_ports (p : Fin 4) (o n : PortState) (s : State) : (leavePoll p o n s).ports = s.ports := by
  simp only [leavePoll]; (repeat' split) <;> simp
@[simp] theorem leavePoll_powerQueue (p : Fin 4) (o n : PortState) (s : State) : (leavePoll p o n s).powerQueue = s.powerQueue := by
  simp only [leavePoll]; (repeat' split) <;> simp
@[simp] theorem leavePoll_freeDraws (p : Fin 4) (o n : PortState) (s : State) : (leavePoll p o n s).freeDraws = s.freeDraws := by
  simp only [leavePoll]; (repeat' split) <;> simp
@[simp] theorem leavePoll_pending (p : Fin 4) (o n : PortState) (s : State) : (leavePoll p o n s).pending = s.pending := by
  simp only [leavePoll]; (repeat' split) <;> simp
@[simp] theorem leavePoll_reception (p : Fin 4) (o n : PortState) (s : State) : (leavePoll p o n s).host.reception = s.host.reception := by
  simp only [leavePoll]; (repeat' split) <;> simp
@[simp] theorem leavePoll_buffer (p : Fin 4) (o n : PortState) (s : State) : (leavePoll p o n s).host.buffer = s.host.buffer := by
  simp only [leavePoll]; (repeat' split) <;> simp
@[simp] theorem leavePoll_time (p : Fin 4) (o n : PortState) (s : State) : (leavePoll p o n s).host.time = s.host.time := by
  simp only [leavePoll]; (repeat' split) <;> simp
@[simp] theorem leavePoll_clockUnset (p : Fin 4) (o n : PortState) (s : State) : (leavePoll p o n s).host.clockUnset = s.host.clockUnset := by
  simp only [leavePoll]; (repeat' split) <;> simp
@[simp] theorem leavePoll_sdo (p : Fin 4) (o n : PortState) (s : State) : (leavePoll p o n s).host.sdo = s.host.sdo := by
  simp only [leavePoll]; (repeat' split) <;> simp
@[simp] theorem leavePoll_ignoring (p : Fin 4) (o n : PortState) (s : State) : (leavePoll p o n s).host.ignoring = s.host.ignoring := by
  simp only [leavePoll]; (repeat' split) <;> simp
@[simp] theorem movePort_inReset (p : Fin 4) (r : Port) (s : State) : (movePort p r s).inReset = s.inReset := by
  simp [movePort]
@[simp] theorem movePort_freeDraws (p : Fin 4) (r : Port) (s : State) : (movePort p r s).freeDraws = s.freeDraws := by
  simp [movePort]
@[simp] theorem movePort_pending (p : Fin 4) (r : Port) (s : State) : (movePort p r s).pending = s.pending := by
  simp [movePort]
@[simp] theorem movePort_reception (p : Fin 4) (r : Port) (s : State) : (movePort p r s).host.reception = s.host.reception := by
  simp [movePort]
@[simp] theorem movePort_buffer (p : Fin 4) (r : Port) (s : State) : (movePort p r s).host.buffer = s.host.buffer := by
  simp [movePort]
@[simp] theorem movePort_time (p : Fin 4) (r : Port) (s : State) : (movePort p r s).host.time = s.host.time := by
  simp [movePort]
@[simp] theorem movePort_clockUnset (p : Fin 4) (r : Port) (s : State) : (movePort p r s).host.clockUnset = s.host.clockUnset := by
  simp [movePort]
@[simp] theorem movePort_sdo (p : Fin 4) (r : Port) (s : State) : (movePort p r s).host.sdo = s.host.sdo := by
  simp [movePort]
@[simp] theorem movePort_ignoring (p : Fin 4) (r : Port) (s : State) : (movePort p r s).host.ignoring = s.host.ignoring := by
  simp [movePort]
@[simp] theorem offerPower_inReset (p : Fin 4) (r : Port) (s : State) : (offerPower p r s).inReset = s.inReset := by
  simp only [offerPower]; split <;> simp
@[simp] theorem offerPower_bus (p : Fin 4) (r : Port) (s : State) : (offerPower p r s).bus = s.bus := by
  simp only [offerPower]; split <;> simp
@[simp] theorem offerPower_selector (p : Fin 4) (r : Port) (s : State) : (offerPower p r s).selector = s.selector := by
  simp only [offerPower]; split <;> simp
@[simp] theorem offerPower_ratings (p : Fin 4) (r : Port) (s : State) : (offerPower p r s).ratings = s.ratings := by
  simp only [offerPower]; split <;> simp
@[simp] theorem offerPower_lastFlow (p : Fin 4) (r : Port) (s : State) : (offerPower p r s).lastFlow = s.lastFlow := by
  simp only [offerPower]; split <;> simp
@[simp] theorem offerPower_watches (p : Fin 4) (r : Port) (s : State) : (offerPower p r s).watches = s.watches := by
  simp only [offerPower]; split <;> simp
@[simp] theorem offerPower_carriage (p : Fin 4) (r : Port) (s : State) : (offerPower p r s).carriage = s.carriage := by
  simp only [offerPower]; split <;> simp
@[simp] theorem offerPower_meter (p : Fin 4) (r : Port) (s : State) : (offerPower p r s).meter = s.meter := by
  simp only [offerPower]; split <;> simp
@[simp] theorem offerPower_gaugings (p : Fin 4) (r : Port) (s : State) : (offerPower p r s).gaugings = s.gaugings := by
  simp only [offerPower]; split <;> simp
@[simp] theorem offerPower_freeDraws (p : Fin 4) (r : Port) (s : State) : (offerPower p r s).freeDraws = s.freeDraws := by
  simp only [offerPower]; split <;> simp
@[simp] theorem offerPower_pending (p : Fin 4) (r : Port) (s : State) : (offerPower p r s).pending = s.pending := by
  simp only [offerPower]; split <;> simp
@[simp] theorem offerPower_reception (p : Fin 4) (r : Port) (s : State) : (offerPower p r s).host.reception = s.host.reception := by
  simp only [offerPower]; split <;> simp
@[simp] theorem offerPower_buffer (p : Fin 4) (r : Port) (s : State) : (offerPower p r s).host.buffer = s.host.buffer := by
  simp only [offerPower]; split <;> simp
@[simp] theorem offerPower_time (p : Fin 4) (r : Port) (s : State) : (offerPower p r s).host.time = s.host.time := by
  simp only [offerPower]; split <;> simp
@[simp] theorem offerPower_clockUnset (p : Fin 4) (r : Port) (s : State) : (offerPower p r s).host.clockUnset = s.host.clockUnset := by
  simp only [offerPower]; split <;> simp
@[simp] theorem offerPower_sdo (p : Fin 4) (r : Port) (s : State) : (offerPower p r s).host.sdo = s.host.sdo := by
  simp only [offerPower]; split <;> simp
@[simp] theorem offerPower_ignoring (p : Fin 4) (r : Port) (s : State) : (offerPower p r s).host.ignoring = s.host.ignoring := by
  simp only [offerPower]; split <;> simp
@[simp] theorem beginIdentify_inReset (p : Fin 4) (s : State) : (beginIdentify p s).inReset = s.inReset := by
  simp [beginIdentify]
@[simp] theorem beginIdentify_freeDraws (p : Fin 4) (s : State) : (beginIdentify p s).freeDraws = s.freeDraws := by
  simp [beginIdentify]
@[simp] theorem beginIdentify_pending (p : Fin 4) (s : State) : (beginIdentify p s).pending = s.pending := by
  simp [beginIdentify]
@[simp] theorem beginIdentify_reception (p : Fin 4) (s : State) : (beginIdentify p s).host.reception = s.host.reception := by
  simp [beginIdentify]
@[simp] theorem beginIdentify_buffer (p : Fin 4) (s : State) : (beginIdentify p s).host.buffer = s.host.buffer := by
  simp [beginIdentify]
@[simp] theorem beginIdentify_time (p : Fin 4) (s : State) : (beginIdentify p s).host.time = s.host.time := by
  simp [beginIdentify]
@[simp] theorem beginIdentify_clockUnset (p : Fin 4) (s : State) : (beginIdentify p s).host.clockUnset = s.host.clockUnset := by
  simp [beginIdentify]
@[simp] theorem beginIdentify_sdo (p : Fin 4) (s : State) : (beginIdentify p s).host.sdo = s.host.sdo := by
  simp [beginIdentify]
@[simp] theorem beginIdentify_ignoring (p : Fin 4) (s : State) : (beginIdentify p s).host.ignoring = s.host.ignoring := by
  simp [beginIdentify]

/-! ## The events of the line (R10, R18, R24, R33 to R38) -/

@[simp] theorem sendFrame_inReset (p : Fin 4) (v : Byte) (s : State) : (sendFrame p v s).inReset = s.inReset := by
  simp [sendFrame]
@[simp] theorem sendFrame_ports (p : Fin 4) (v : Byte) (s : State) : (sendFrame p v s).ports = s.ports := by
  simp [sendFrame]
@[simp] theorem sendFrame_powerQueue (p : Fin 4) (v : Byte) (s : State) : (sendFrame p v s).powerQueue = s.powerQueue := by
  simp [sendFrame]
@[simp] theorem sendFrame_selector (p : Fin 4) (v : Byte) (s : State) : (sendFrame p v s).selector = s.selector := by
  simp [sendFrame]
@[simp] theorem sendFrame_ratings (p : Fin 4) (v : Byte) (s : State) : (sendFrame p v s).ratings = s.ratings := by
  simp [sendFrame]
@[simp] theorem sendFrame_lastFlow (p : Fin 4) (v : Byte) (s : State) : (sendFrame p v s).lastFlow = s.lastFlow := by
  simp [sendFrame]
@[simp] theorem sendFrame_watches (p : Fin 4) (v : Byte) (s : State) : (sendFrame p v s).watches = s.watches := by
  simp [sendFrame]
@[simp] theorem sendFrame_carriage (p : Fin 4) (v : Byte) (s : State) : (sendFrame p v s).carriage = s.carriage := by
  simp [sendFrame]
@[simp] theorem sendFrame_meter (p : Fin 4) (v : Byte) (s : State) : (sendFrame p v s).meter = s.meter := by
  simp [sendFrame]
@[simp] theorem sendFrame_gaugings (p : Fin 4) (v : Byte) (s : State) : (sendFrame p v s).gaugings = s.gaugings := by
  simp [sendFrame]
@[simp] theorem sendFrame_freeDraws (p : Fin 4) (v : Byte) (s : State) : (sendFrame p v s).freeDraws = s.freeDraws := by
  simp [sendFrame]
@[simp] theorem sendFrame_pending (p : Fin 4) (v : Byte) (s : State) : (sendFrame p v s).pending = s.pending := by
  simp [sendFrame]
@[simp] theorem sendFrame_reception (p : Fin 4) (v : Byte) (s : State) : (sendFrame p v s).host.reception = s.host.reception := by
  simp [sendFrame]
@[simp] theorem sendFrame_buffer (p : Fin 4) (v : Byte) (s : State) : (sendFrame p v s).host.buffer = s.host.buffer := by
  simp [sendFrame]
@[simp] theorem sendFrame_time (p : Fin 4) (v : Byte) (s : State) : (sendFrame p v s).host.time = s.host.time := by
  simp [sendFrame]
@[simp] theorem sendFrame_clockUnset (p : Fin 4) (v : Byte) (s : State) : (sendFrame p v s).host.clockUnset = s.host.clockUnset := by
  simp [sendFrame]
@[simp] theorem sendFrame_sdo (p : Fin 4) (v : Byte) (s : State) : (sendFrame p v s).host.sdo = s.host.sdo := by
  simp [sendFrame]
@[simp] theorem sendFrame_ignoring (p : Fin 4) (v : Byte) (s : State) : (sendFrame p v s).host.ignoring = s.host.ignoring := by
  simp [sendFrame]
@[simp] theorem pollNext_inReset (s : State) : (pollNext s).inReset = s.inReset := by
  simp only [pollNext]; (repeat' split) <;> simp
@[simp] theorem pollNext_ports (s : State) : (pollNext s).ports = s.ports := by
  simp only [pollNext]; (repeat' split) <;> simp
@[simp] theorem pollNext_powerQueue (s : State) : (pollNext s).powerQueue = s.powerQueue := by
  simp only [pollNext]; (repeat' split) <;> simp
@[simp] theorem pollNext_freeDraws (s : State) : (pollNext s).freeDraws = s.freeDraws := by
  simp only [pollNext]; (repeat' split) <;> simp
@[simp] theorem pollNext_pending (s : State) : (pollNext s).pending = s.pending := by
  simp only [pollNext]; (repeat' split) <;> simp
@[simp] theorem pollNext_reception (s : State) : (pollNext s).host.reception = s.host.reception := by
  simp only [pollNext]; (repeat' split) <;> simp
@[simp] theorem pollNext_buffer (s : State) : (pollNext s).host.buffer = s.host.buffer := by
  simp only [pollNext]; (repeat' split) <;> simp
@[simp] theorem pollNext_time (s : State) : (pollNext s).host.time = s.host.time := by
  simp only [pollNext]; (repeat' split) <;> simp
@[simp] theorem pollNext_clockUnset (s : State) : (pollNext s).host.clockUnset = s.host.clockUnset := by
  simp only [pollNext]; (repeat' split) <;> simp
@[simp] theorem pollNext_sdo (s : State) : (pollNext s).host.sdo = s.host.sdo := by
  simp only [pollNext]; (repeat' split) <;> simp
@[simp] theorem pollNext_ignoring (s : State) : (pollNext s).host.ignoring = s.host.ignoring := by
  simp only [pollNext]; (repeat' split) <;> simp
@[simp] theorem pollEnds_inReset (e : ReplyEnd) (s : State) : (pollEnds e s).inReset = s.inReset := by
  simp only [pollEnds]; (repeat' split) <;> simp
@[simp] theorem pollEnds_powerQueue (e : ReplyEnd) (s : State) : (pollEnds e s).powerQueue = s.powerQueue := by
  simp only [pollEnds]; (repeat' split) <;> simp
@[simp] theorem pollEnds_freeDraws (e : ReplyEnd) (s : State) : (pollEnds e s).freeDraws = s.freeDraws := by
  simp only [pollEnds]; (repeat' split) <;> simp
@[simp] theorem pollEnds_pending (e : ReplyEnd) (s : State) : (pollEnds e s).pending = s.pending := by
  simp only [pollEnds]; (repeat' split) <;> simp
@[simp] theorem pollEnds_reception (e : ReplyEnd) (s : State) : (pollEnds e s).host.reception = s.host.reception := by
  simp only [pollEnds]; (repeat' split) <;> simp
@[simp] theorem pollEnds_buffer (e : ReplyEnd) (s : State) : (pollEnds e s).host.buffer = s.host.buffer := by
  simp only [pollEnds]; (repeat' split) <;> simp
@[simp] theorem pollEnds_time (e : ReplyEnd) (s : State) : (pollEnds e s).host.time = s.host.time := by
  simp only [pollEnds]; (repeat' split) <;> simp
@[simp] theorem pollEnds_clockUnset (e : ReplyEnd) (s : State) : (pollEnds e s).host.clockUnset = s.host.clockUnset := by
  simp only [pollEnds]; (repeat' split) <;> simp
@[simp] theorem pollEnds_sdo (e : ReplyEnd) (s : State) : (pollEnds e s).host.sdo = s.host.sdo := by
  simp only [pollEnds]; (repeat' split) <;> simp
@[simp] theorem pollEnds_ignoring (e : ReplyEnd) (s : State) : (pollEnds e s).host.ignoring = s.host.ignoring := by
  simp only [pollEnds]; (repeat' split) <;> simp
@[simp] theorem takeAttempt_inReset (p : Fin 4) (e : ReplyEnd) (s : State) : (takeAttempt p e s).inReset = s.inReset := by
  simp only [takeAttempt]; (repeat' split) <;> simp
@[simp] theorem takeAttempt_powerQueue (p : Fin 4) (e : ReplyEnd) (s : State) : (takeAttempt p e s).powerQueue = s.powerQueue := by
  simp only [takeAttempt]; (repeat' split) <;> simp
@[simp] theorem takeAttempt_freeDraws (p : Fin 4) (e : ReplyEnd) (s : State) : (takeAttempt p e s).freeDraws = s.freeDraws := by
  simp only [takeAttempt]; (repeat' split) <;> simp
@[simp] theorem takeAttempt_pending (p : Fin 4) (e : ReplyEnd) (s : State) : (takeAttempt p e s).pending = s.pending := by
  simp only [takeAttempt]; (repeat' split) <;> simp
@[simp] theorem takeAttempt_reception (p : Fin 4) (e : ReplyEnd) (s : State) : (takeAttempt p e s).host.reception = s.host.reception := by
  simp only [takeAttempt]; (repeat' split) <;> simp
@[simp] theorem takeAttempt_buffer (p : Fin 4) (e : ReplyEnd) (s : State) : (takeAttempt p e s).host.buffer = s.host.buffer := by
  simp only [takeAttempt]; (repeat' split) <;> simp
@[simp] theorem takeAttempt_time (p : Fin 4) (e : ReplyEnd) (s : State) : (takeAttempt p e s).host.time = s.host.time := by
  simp only [takeAttempt]; (repeat' split) <;> simp
@[simp] theorem takeAttempt_clockUnset (p : Fin 4) (e : ReplyEnd) (s : State) : (takeAttempt p e s).host.clockUnset = s.host.clockUnset := by
  simp only [takeAttempt]; (repeat' split) <;> simp
@[simp] theorem takeAttempt_sdo (p : Fin 4) (e : ReplyEnd) (s : State) : (takeAttempt p e s).host.sdo = s.host.sdo := by
  simp only [takeAttempt]; (repeat' split) <;> simp
@[simp] theorem takeAttempt_ignoring (p : Fin 4) (e : ReplyEnd) (s : State) : (takeAttempt p e s).host.ignoring = s.host.ignoring := by
  simp only [takeAttempt]; (repeat' split) <;> simp
@[simp] theorem identEnds_inReset (p : Fin 4) (e : ReplyEnd) (s : State) : (identEnds p e s).inReset = s.inReset := by
  simp [identEnds]
@[simp] theorem identEnds_powerQueue (p : Fin 4) (e : ReplyEnd) (s : State) : (identEnds p e s).powerQueue = s.powerQueue := by
  simp [identEnds]
@[simp] theorem identEnds_freeDraws (p : Fin 4) (e : ReplyEnd) (s : State) : (identEnds p e s).freeDraws = s.freeDraws := by
  simp [identEnds]
@[simp] theorem identEnds_pending (p : Fin 4) (e : ReplyEnd) (s : State) : (identEnds p e s).pending = s.pending := by
  simp [identEnds]
@[simp] theorem identEnds_reception (p : Fin 4) (e : ReplyEnd) (s : State) : (identEnds p e s).host.reception = s.host.reception := by
  simp [identEnds]
@[simp] theorem identEnds_buffer (p : Fin 4) (e : ReplyEnd) (s : State) : (identEnds p e s).host.buffer = s.host.buffer := by
  simp [identEnds]
@[simp] theorem identEnds_time (p : Fin 4) (e : ReplyEnd) (s : State) : (identEnds p e s).host.time = s.host.time := by
  simp [identEnds]
@[simp] theorem identEnds_clockUnset (p : Fin 4) (e : ReplyEnd) (s : State) : (identEnds p e s).host.clockUnset = s.host.clockUnset := by
  simp [identEnds]
@[simp] theorem identEnds_sdo (p : Fin 4) (e : ReplyEnd) (s : State) : (identEnds p e s).host.sdo = s.host.sdo := by
  simp [identEnds]
@[simp] theorem identEnds_ignoring (p : Fin 4) (e : ReplyEnd) (s : State) : (identEnds p e s).host.ignoring = s.host.ignoring := by
  simp [identEnds]
@[simp] theorem zeroExchangeEnds_inReset (p : Fin 4) (e : ReplyEnd) (s : State) : (zeroExchangeEnds p e s).inReset = s.inReset := by
  simp [zeroExchangeEnds]
@[simp] theorem zeroExchangeEnds_ports (p : Fin 4) (e : ReplyEnd) (s : State) : (zeroExchangeEnds p e s).ports = s.ports := by
  simp [zeroExchangeEnds]
@[simp] theorem zeroExchangeEnds_powerQueue (p : Fin 4) (e : ReplyEnd) (s : State) : (zeroExchangeEnds p e s).powerQueue = s.powerQueue := by
  simp [zeroExchangeEnds]
@[simp] theorem zeroExchangeEnds_freeDraws (p : Fin 4) (e : ReplyEnd) (s : State) : (zeroExchangeEnds p e s).freeDraws = s.freeDraws := by
  simp [zeroExchangeEnds]
@[simp] theorem zeroExchangeEnds_pending (p : Fin 4) (e : ReplyEnd) (s : State) : (zeroExchangeEnds p e s).pending = s.pending := by
  simp [zeroExchangeEnds]
@[simp] theorem zeroExchangeEnds_reception (p : Fin 4) (e : ReplyEnd) (s : State) : (zeroExchangeEnds p e s).host.reception = s.host.reception := by
  simp [zeroExchangeEnds]
@[simp] theorem zeroExchangeEnds_buffer (p : Fin 4) (e : ReplyEnd) (s : State) : (zeroExchangeEnds p e s).host.buffer = s.host.buffer := by
  simp [zeroExchangeEnds]
@[simp] theorem zeroExchangeEnds_time (p : Fin 4) (e : ReplyEnd) (s : State) : (zeroExchangeEnds p e s).host.time = s.host.time := by
  simp [zeroExchangeEnds]
@[simp] theorem zeroExchangeEnds_clockUnset (p : Fin 4) (e : ReplyEnd) (s : State) : (zeroExchangeEnds p e s).host.clockUnset = s.host.clockUnset := by
  simp [zeroExchangeEnds]
@[simp] theorem zeroExchangeEnds_sdo (p : Fin 4) (e : ReplyEnd) (s : State) : (zeroExchangeEnds p e s).host.sdo = s.host.sdo := by
  simp [zeroExchangeEnds]
@[simp] theorem zeroExchangeEnds_ignoring (p : Fin 4) (e : ReplyEnd) (s : State) : (zeroExchangeEnds p e s).host.ignoring = s.host.ignoring := by
  simp [zeroExchangeEnds]
@[simp] theorem cancelZeros_inReset (s : State) : (cancelZeros s).inReset = s.inReset := by
  unfold cancelZeros; exact foldl_keeps (fun x : State => x.inReset) _ (by intro t a; (repeat' split) <;> simp) _ s
@[simp] theorem cancelZeros_ports (s : State) : (cancelZeros s).ports = s.ports := by
  unfold cancelZeros; exact foldl_keeps (fun x : State => x.ports) _ (by intro t a; (repeat' split) <;> simp) _ s
@[simp] theorem cancelZeros_powerQueue (s : State) : (cancelZeros s).powerQueue = s.powerQueue := by
  unfold cancelZeros; exact foldl_keeps (fun x : State => x.powerQueue) _ (by intro t a; (repeat' split) <;> simp) _ s
@[simp] theorem cancelZeros_selector (s : State) : (cancelZeros s).selector = s.selector := by
  unfold cancelZeros; exact foldl_keeps (fun x : State => x.selector) _ (by intro t a; (repeat' split) <;> simp) _ s
@[simp] theorem cancelZeros_ratings (s : State) : (cancelZeros s).ratings = s.ratings := by
  unfold cancelZeros; exact foldl_keeps (fun x : State => x.ratings) _ (by intro t a; (repeat' split) <;> simp) _ s
@[simp] theorem cancelZeros_lastFlow (s : State) : (cancelZeros s).lastFlow = s.lastFlow := by
  unfold cancelZeros; exact foldl_keeps (fun x : State => x.lastFlow) _ (by intro t a; (repeat' split) <;> simp) _ s
@[simp] theorem cancelZeros_watches (s : State) : (cancelZeros s).watches = s.watches := by
  unfold cancelZeros; exact foldl_keeps (fun x : State => x.watches) _ (by intro t a; (repeat' split) <;> simp) _ s
@[simp] theorem cancelZeros_carriage (s : State) : (cancelZeros s).carriage = s.carriage := by
  unfold cancelZeros; exact foldl_keeps (fun x : State => x.carriage) _ (by intro t a; (repeat' split) <;> simp) _ s
@[simp] theorem cancelZeros_meter (s : State) : (cancelZeros s).meter = s.meter := by
  unfold cancelZeros; exact foldl_keeps (fun x : State => x.meter) _ (by intro t a; (repeat' split) <;> simp) _ s
@[simp] theorem cancelZeros_gaugings (s : State) : (cancelZeros s).gaugings = s.gaugings := by
  unfold cancelZeros; exact foldl_keeps (fun x : State => x.gaugings) _ (by intro t a; (repeat' split) <;> simp) _ s
@[simp] theorem cancelZeros_freeDraws (s : State) : (cancelZeros s).freeDraws = s.freeDraws := by
  unfold cancelZeros; exact foldl_keeps (fun x : State => x.freeDraws) _ (by intro t a; (repeat' split) <;> simp) _ s
@[simp] theorem cancelZeros_pending (s : State) : (cancelZeros s).pending = s.pending := by
  unfold cancelZeros; exact foldl_keeps (fun x : State => x.pending) _ (by intro t a; (repeat' split) <;> simp) _ s
@[simp] theorem cancelZeros_reception (s : State) : (cancelZeros s).host.reception = s.host.reception := by
  unfold cancelZeros; exact foldl_keeps (fun x : State => x.host.reception) _ (by intro t a; (repeat' split) <;> simp) _ s
@[simp] theorem cancelZeros_buffer (s : State) : (cancelZeros s).host.buffer = s.host.buffer := by
  unfold cancelZeros; exact foldl_keeps (fun x : State => x.host.buffer) _ (by intro t a; (repeat' split) <;> simp) _ s
@[simp] theorem cancelZeros_time (s : State) : (cancelZeros s).host.time = s.host.time := by
  unfold cancelZeros; exact foldl_keeps (fun x : State => x.host.time) _ (by intro t a; (repeat' split) <;> simp) _ s
@[simp] theorem cancelZeros_clockUnset (s : State) : (cancelZeros s).host.clockUnset = s.host.clockUnset := by
  unfold cancelZeros; exact foldl_keeps (fun x : State => x.host.clockUnset) _ (by intro t a; (repeat' split) <;> simp) _ s
@[simp] theorem cancelZeros_sdo (s : State) : (cancelZeros s).host.sdo = s.host.sdo := by
  unfold cancelZeros; exact foldl_keeps (fun x : State => x.host.sdo) _ (by intro t a; (repeat' split) <;> simp) _ s
@[simp] theorem cancelZeros_ignoring (s : State) : (cancelZeros s).host.ignoring = s.host.ignoring := by
  unfold cancelZeros; exact foldl_keeps (fun x : State => x.host.ignoring) _ (by intro t a; (repeat' split) <;> simp) _ s
@[simp] theorem reidentify_inReset (p : Fin 4) (s : State) : (reidentify p s).inReset = s.inReset := by
  simp only [reidentify]; (repeat' split) <;> simp
@[simp] theorem reidentify_powerQueue (p : Fin 4) (s : State) : (reidentify p s).powerQueue = s.powerQueue := by
  simp only [reidentify]; (repeat' split) <;> simp
@[simp] theorem reidentify_freeDraws (p : Fin 4) (s : State) : (reidentify p s).freeDraws = s.freeDraws := by
  simp only [reidentify]; (repeat' split) <;> simp
@[simp] theorem reidentify_pending (p : Fin 4) (s : State) : (reidentify p s).pending = s.pending := by
  simp only [reidentify]; (repeat' split) <;> simp
@[simp] theorem reidentify_reception (p : Fin 4) (s : State) : (reidentify p s).host.reception = s.host.reception := by
  simp only [reidentify]; (repeat' split) <;> simp
@[simp] theorem reidentify_buffer (p : Fin 4) (s : State) : (reidentify p s).host.buffer = s.host.buffer := by
  simp only [reidentify]; (repeat' split) <;> simp
@[simp] theorem reidentify_time (p : Fin 4) (s : State) : (reidentify p s).host.time = s.host.time := by
  simp only [reidentify]; (repeat' split) <;> simp
@[simp] theorem reidentify_clockUnset (p : Fin 4) (s : State) : (reidentify p s).host.clockUnset = s.host.clockUnset := by
  simp only [reidentify]; (repeat' split) <;> simp
@[simp] theorem reidentify_sdo (p : Fin 4) (s : State) : (reidentify p s).host.sdo = s.host.sdo := by
  simp only [reidentify]; (repeat' split) <;> simp
@[simp] theorem reidentify_ignoring (p : Fin 4) (s : State) : (reidentify p s).host.ignoring = s.host.ignoring := by
  simp only [reidentify]; (repeat' split) <;> simp
@[simp] theorem breakBegins_inReset (s : State) : (breakBegins s).inReset = s.inReset := by
  unfold breakBegins; exact (foldl_keeps (fun x : State => x.inReset) _ (by intro t a; simp) _ _).trans (by simp)
@[simp] theorem breakBegins_powerQueue (s : State) : (breakBegins s).powerQueue = s.powerQueue := by
  unfold breakBegins; exact (foldl_keeps (fun x : State => x.powerQueue) _ (by intro t a; simp) _ _).trans (by simp)
@[simp] theorem breakBegins_freeDraws (s : State) : (breakBegins s).freeDraws = s.freeDraws := by
  unfold breakBegins; exact (foldl_keeps (fun x : State => x.freeDraws) _ (by intro t a; simp) _ _).trans (by simp)
@[simp] theorem breakBegins_pending (s : State) : (breakBegins s).pending = s.pending := by
  unfold breakBegins; exact (foldl_keeps (fun x : State => x.pending) _ (by intro t a; simp) _ _).trans (by simp)
@[simp] theorem breakBegins_reception (s : State) : (breakBegins s).host.reception = s.host.reception := by
  unfold breakBegins; exact (foldl_keeps (fun x : State => x.host.reception) _ (by intro t a; simp) _ _).trans (by simp)
@[simp] theorem breakBegins_buffer (s : State) : (breakBegins s).host.buffer = s.host.buffer := by
  unfold breakBegins; exact (foldl_keeps (fun x : State => x.host.buffer) _ (by intro t a; simp) _ _).trans (by simp)
@[simp] theorem breakBegins_time (s : State) : (breakBegins s).host.time = s.host.time := by
  unfold breakBegins; exact (foldl_keeps (fun x : State => x.host.time) _ (by intro t a; simp) _ _).trans (by simp)
@[simp] theorem breakBegins_clockUnset (s : State) : (breakBegins s).host.clockUnset = s.host.clockUnset := by
  unfold breakBegins; exact (foldl_keeps (fun x : State => x.host.clockUnset) _ (by intro t a; simp) _ _).trans (by simp)
@[simp] theorem breakBegins_sdo (s : State) : (breakBegins s).host.sdo = s.host.sdo := by
  unfold breakBegins; exact (foldl_keeps (fun x : State => x.host.sdo) _ (by intro t a; simp) _ _).trans (by simp)
@[simp] theorem breakBegins_ignoring (s : State) : (breakBegins s).host.ignoring = s.host.ignoring := by
  unfold breakBegins; exact (foldl_keeps (fun x : State => x.host.ignoring) _ (by intro t a; simp) _ _).trans (by simp)

end Sys2Proof.Machine
end

