-- ==== Sys2Proof/Laws/Commands.lean ====
section
/-! SUPPORT. How a command is taken: the hold of RST_N, the length checks of a frame, and a step at the queue's front. -/

namespace Sys2Proof.Machine

/-- A block that RST_N does not hold takes the command. -/
theorem live_next {f : State → State} {s : State} (h : s.inReset = false) : live f s = .next (f s) := by simp [live, h]

/-- A block held in reset takes no command. -/
theorem live_held {f : State → State} {s : State} (h : s.inReset = true) : live f s = .next s := by simp [live, h]

/-- A command port that neither RST_N holds nor an abandoned transaction keeps takes the transaction that ends. -/
theorem transacted_next {f : State → State} {s : State} (h : s.inReset = false) (hi : s.host.ignoring = false) :
    transacted f s = .next (f s) := by simp [transacted, h, hi]

/-- A transaction that the command port ignores only ends. -/
theorem transacted_ignored {f : State → State} {s : State} (h : s.inReset = true ∨ s.host.ignoring = true) :
    transacted f s = .next { s with host := { s.host with ignoring := false } } := by
  rcases h with h | h <;> simp [transacted, h]

/-- A frame of the length its layout gives reaches the owning block. -/
theorem takeVerb_fits {f : FrameLen} {layout : Nat} (code : Byte) (block : State → State × Answer) (s : State)
    (h : f.received = f.declared.toNat) (hl : f.declared.toNat = layout) :
    takeVerb f layout code block s = respond f.received ⟨(block s).2.code, code, (block s).2.body⟩ (block s).1 := by
  simp [takeVerb, frameFault, h, hl]

/-- The meaning of a verb whose frame has the length of its layout, on a command port that takes it: the owning block's
answer is placed in the buffer. -/
theorem verb_next {n : Nat} {code : Byte} {block : State → State × Answer} {s : State} (h : s.inReset = false)
    (hi : s.host.ignoring = false) (hn : n < 256) : transacted (takeVerb ⟨BitVec.ofNat 8 n, n⟩ n code block) s =
      .next (respond n ⟨(block s).2.code, code, (block s).2.body⟩ (block s).1) := by
  have he : (BitVec.ofNat 8 n).toNat = n := by rw [BitVec.toNat_ofNat]; exact Nat.mod_eq_of_lt hn
  rw [transacted_next h hi, takeVerb_fits _ _ _ he.symm he]

/-- A frame that fails a length check is refused with its fault, and the owning block is not asked. -/
theorem takeVerb_fault {f : FrameLen} {layout : Nat} {k : FrameFault} (code : Byte) (block : State → State × Answer)
    (s : State) (h : frameFault f layout = some k) :
    takeVerb f layout code block s = respond f.received ⟨.badField, code, .frameFault k⟩ s := by simp [takeVerb, h]

theorem frameFault_short {f : FrameLen} (layout : Nat) (h : f.received < f.declared.toNat) :
    frameFault f layout = some .short := by simp [frameFault, h]

theorem frameFault_long {f : FrameLen} (layout : Nat) (h : f.declared.toNat < f.received) :
    frameFault f layout = some .long := by simp [frameFault, h, Nat.not_lt.mpr (Nat.le_of_lt h)]

theorem frameFault_layout {f : FrameLen} {layout : Nat} (h : f.received = f.declared.toNat) (hl : f.received ≠ layout) :
    frameFault f layout = some .layout := by
  rw [h] at hl
  simp [frameFault, h, hl]

/-- The step takes the command at the front of the queue. -/
theorem step_cons (c : Instr) (rest : List Instr) (s : State) :
    step { s with pending := c :: rest } = exec c { s with pending := rest } := rfl

/-- The step of a block with nothing waiting passes a millisecond. -/
theorem step_nil {s : State} (h : s.pending = []) : step s = .next (tick s) := by simp [step, h]

/-- A step is the tick, or the front command's meaning on the block with the queue's rest. -/
theorem step_cases {s : State} {o : Host.Outcome State Fault Refusal} (h : step s = o) :
    (s.pending = [] ∧ o = .next (tick s)) ∨
      ∃ c rest, s.pending = c :: rest ∧ o = exec c { s with pending := rest } := by
  cases hp : s.pending with
  | nil => exact .inl ⟨rfl, by rw [← h, step_nil hp]⟩
  | cons c rest => exact .inr ⟨c, rest, rfl, by rw [← h]; simp [step, hp]⟩

/-- What holds before a command and after its effect holds after the command, held in reset or not. -/
theorem live_elim {f : State → State} {s t : State} (P : State → Prop) (h : live f s = .next t) (h0 : P s)
    (h1 : P (f s)) : P t := by
  simp only [live, Host.Outcome.next.injEq] at h
  subst h
  split <;> assumption

/-- What holds before a transaction, and the end of an ignored one and the transaction's effect keep, holds after it. -/
theorem transacted_elim {f : State → State} {s t : State} (P : State → Prop) (h : transacted f s = .next t)
    (h0 : P { s with host := { s.host with ignoring := false } }) (h1 : P (f s)) : P t := by
  simp only [transacted, Host.Outcome.next.injEq] at h
  subst h
  split <;> assumption

/-- What a response keeps, and the block's answer keeps, a verb keeps. -/
theorem takeVerb_elim {f : FrameLen} {layout : Nat} {code : Byte} {block : State → State × Answer} {s : State}
    (P : State → Prop) (hr : ∀ n r u, P u → P (respond n r u)) (h0 : P s) (h1 : P (block s).1) :
    P (takeVerb f layout code block s) := by
  simp only [takeVerb]
  split
  · exact hr _ _ _ h0
  · exact hr _ _ _ h1

/-- What the passing of a millisecond keeps, and every command keeps whatever waits behind it, every step keeps. -/
theorem step_keeps (P : State → Prop) (hq : ∀ s q, P s → P { s with pending := q }) (ht : ∀ s, P s → P (tick s))
    (hc : ∀ c s t, P s → exec c s = .next t → P t) (s t : State) (hs : P s) (h : step s = .next t) : P t := by
  rcases step_cases h with ⟨_, e⟩ | ⟨c, rest, _, e⟩
  · injection e with e; exact e ▸ ht s hs
  · exact hc c _ t (hq s rest hs) e.symm

/-- Two states with the same fields are the same state. -/
theorem State.eq_of_fields {s t : State} (h1 : s.inReset = t.inReset) (h2 : s.host = t.host) (h3 : s.ports = t.ports)
    (h4 : s.powerQueue = t.powerQueue) (h5 : s.bus = t.bus) (h6 : s.selector = t.selector) (h7 : s.ratings = t.ratings)
    (h8 : s.lastFlow = t.lastFlow) (h9 : s.watches = t.watches) (h10 : s.carriage = t.carriage) (h11 : s.meter = t.meter)
    (h12 : s.gaugings = t.gaugings) (h13 : s.freeDraws = t.freeDraws) (h14 : s.pending = t.pending) : s = t := by
  cases s; cases t; simp_all

/-- Two command port records with the same fields are the same record. -/
theorem CommandPort.eq_of_fields {s t : CommandPort} (h1 : s.reception = t.reception) (h2 : s.buffer = t.buffer)
    (h3 : s.time = t.time) (h4 : s.clockUnset = t.clockUnset) (h5 : s.attention = t.attention) (h6 : s.sdo = t.sdo)
    (h7 : s.ignoring = t.ignoring) : s = t := by
  cases s; cases t; simp_all

end Sys2Proof.Machine
end

