-- ==== Sys2Proof/Laws/Effects.lean ====
section
/-! SUPPORT. What the blocks' answers and the events can change: for each, the components of the state that it may rewrite;
all else it leaves as it was. -/

namespace Sys2Proof.Machine

/-! ## Command port (R176 to R185) -/

theorem timeRises_effect (s : State) : ∃ h,
    timeRises s = { s with host := h } := ⟨_, rfl⟩

theorem setTime_effect (t : Word) (s : State) : ∃ h,
    (setTime t s).1 = { s with host := h } := ⟨_, rfl⟩

theorem readTime_effect (s : State) : (readTime s).1 = s := rfl

theorem readAttention_effect (s : State) : ∃ h,
    (readAttention s).1 = { s with host := h } := ⟨_, rfl⟩

theorem readEnds_effect (n : Nat) (s : State) : ∃ h,
    readEnds n s = { s with host := h } := ⟨_, rfl⟩

theorem transactionBegins_effect (b : Option FirstByte) (s : State) : ∃ h,
    transactionBegins b s = { s with host := h } := by
  simp only [transactionBegins]; (repeat' split) <;> exact ⟨_, rfl⟩


/-! ## Ports (chapter 1) -/

theorem portConfig_effect (port kind address : Byte) (datum : Word) (cls mode missLimit : Byte) (s : State) : ∃ v att,
    (portConfig port kind address datum cls mode missLimit s).1 = { s with ports := v, host := { s.host with attention := att } } := by
  refine ⟨((portConfig port kind address datum cls mode missLimit s).1).ports, ((portConfig port kind address datum cls mode missLimit s).1).host.attention, State.eq_of_fields ?_ (CommandPort.eq_of_fields ?_ ?_ ?_ ?_ rfl ?_ ?_) rfl ?_ ?_ ?_ ?_ ?_ ?_ ?_ ?_ ?_ ?_ ?_⟩ <;>
    (simp only [portConfig]; (repeat' split) <;> simp [refuse, okPort])

theorem portRead_effect (port : Byte) (s : State) : (portRead port s).1 = s := by
  simp only [portRead]; (repeat' split) <;> exact rfl

theorem lampBlinks_effect (p : Fin 4) (s : State) : ∃ v,
    lampBlinks p s = { s with ports := v } := by
  simp only [lampBlinks]; (repeat' split) <;> exact ⟨_, rfl⟩


/-! ## Sensor bus (chapter 2) -/

theorem busConfig_effect (d n : Half) (s : State) : ∃ b,
    (busConfig d n s).1 = { s with bus := b } := by
  simp only [busConfig]; (repeat' split) <;> exact ⟨_, rfl⟩

theorem headZero_effect (p : Byte) (s : State) : ∃ b x r fl wu ca me ga att,
    (headZero p s).1 = { s with bus := b, selector := x, ratings := r, lastFlow := fl, watches := wu, carriage := ca, meter := me, gaugings := ga, host := { s.host with attention := att } } := by
  refine ⟨((headZero p s).1).bus, ((headZero p s).1).selector, ((headZero p s).1).ratings, ((headZero p s).1).lastFlow, ((headZero p s).1).watches, ((headZero p s).1).carriage, ((headZero p s).1).meter, ((headZero p s).1).gaugings, ((headZero p s).1).host.attention, State.eq_of_fields ?_ (CommandPort.eq_of_fields ?_ ?_ ?_ ?_ rfl ?_ ?_) ?_ ?_ rfl rfl rfl rfl rfl rfl rfl rfl ?_ ?_⟩ <;>
    (simp only [headZero]; (repeat' split) <;> simp [refuse])

theorem cycleExpires_effect (s : State) : ∃ b x r fl wu ca me ga att,
    cycleExpires s = { s with bus := b, selector := x, ratings := r, lastFlow := fl, watches := wu, carriage := ca, meter := me, gaugings := ga, host := { s.host with attention := att } } := by
  refine ⟨(cycleExpires s).bus, (cycleExpires s).selector, (cycleExpires s).ratings, (cycleExpires s).lastFlow, (cycleExpires s).watches, (cycleExpires s).carriage, (cycleExpires s).meter, (cycleExpires s).gaugings, (cycleExpires s).host.attention, State.eq_of_fields ?_ (CommandPort.eq_of_fields ?_ ?_ ?_ ?_ rfl ?_ ?_) ?_ ?_ rfl rfl rfl rfl rfl rfl rfl rfl ?_ ?_⟩ <;>
    (simp only [cycleExpires]; (repeat' split) <;> simp [refuse])

theorem frameBegins_effect (s : State) : ∃ b x r fl wu ca me ga att,
    frameBegins s = { s with bus := b, selector := x, ratings := r, lastFlow := fl, watches := wu, carriage := ca, meter := me, gaugings := ga, host := { s.host with attention := att } } := by
  refine ⟨(frameBegins s).bus, (frameBegins s).selector, (frameBegins s).ratings, (frameBegins s).lastFlow, (frameBegins s).watches, (frameBegins s).carriage, (frameBegins s).meter, (frameBegins s).gaugings, (frameBegins s).host.attention, State.eq_of_fields ?_ (CommandPort.eq_of_fields ?_ ?_ ?_ ?_ rfl ?_ ?_) ?_ ?_ rfl rfl rfl rfl rfl rfl rfl rfl ?_ ?_⟩ <;>
    (simp only [frameBegins]; (repeat' split) <;> simp [refuse])

theorem recoveryEnds_effect (s : State) : ∃ b x r fl wu ca me ga att,
    recoveryEnds s = { s with bus := b, selector := x, ratings := r, lastFlow := fl, watches := wu, carriage := ca, meter := me, gaugings := ga, host := { s.host with attention := att } } := by
  refine ⟨(recoveryEnds s).bus, (recoveryEnds s).selector, (recoveryEnds s).ratings, (recoveryEnds s).lastFlow, (recoveryEnds s).watches, (recoveryEnds s).carriage, (recoveryEnds s).meter, (recoveryEnds s).gaugings, (recoveryEnds s).host.attention, State.eq_of_fields ?_ (CommandPort.eq_of_fields ?_ ?_ ?_ ?_ rfl ?_ ?_) ?_ ?_ rfl rfl rfl rfl rfl rfl rfl rfl ?_ ?_⟩ <;>
    (simp only [recoveryEnds]; (repeat' split) <;> simp [refuse])

theorem sbusCompletes_effect (l : List Bool) (k : Bool) (s : State) : ∃ b att,
    sbusCompletes l k s = { s with bus := b, host := { s.host with attention := att } } := by
  refine ⟨(sbusCompletes l k s).bus, (sbusCompletes l k s).host.attention, State.eq_of_fields ?_ (CommandPort.eq_of_fields ?_ ?_ ?_ ?_ rfl ?_ ?_) ?_ ?_ rfl ?_ ?_ ?_ ?_ ?_ ?_ ?_ ?_ ?_⟩ <;>
    (simp only [sbusCompletes]; (repeat' split) <;> simp [refuse])

theorem strayComes_effect (s : State) : ∃ att,
    strayComes s = { s with host := { s.host with attention := att } } := by
  refine ⟨(strayComes s).host.attention, State.eq_of_fields ?_ (CommandPort.eq_of_fields ?_ ?_ ?_ ?_ rfl ?_ ?_) ?_ ?_ ?_ ?_ ?_ ?_ ?_ ?_ ?_ ?_ ?_ ?_⟩ <;>
    (simp only [strayComes]; (repeat' split) <;> simp [refuse])

theorem exchangeEnds_effect (e : ReplyEnd) (s : State) : ∃ v b x r fl wu ca me ga att,
    exchangeEnds e s = { s with ports := v, bus := b, selector := x, ratings := r, lastFlow := fl, watches := wu, carriage := ca, meter := me, gaugings := ga, host := { s.host with attention := att } } := by
  refine ⟨(exchangeEnds e s).ports, (exchangeEnds e s).bus, (exchangeEnds e s).selector, (exchangeEnds e s).ratings, (exchangeEnds e s).lastFlow, (exchangeEnds e s).watches, (exchangeEnds e s).carriage, (exchangeEnds e s).meter, (exchangeEnds e s).gaugings, (exchangeEnds e s).host.attention, State.eq_of_fields ?_ (CommandPort.eq_of_fields ?_ ?_ ?_ ?_ rfl ?_ ?_) rfl ?_ rfl rfl rfl rfl rfl rfl rfl rfl ?_ ?_⟩ <;>
    (simp only [exchangeEnds]; (repeat' split) <;> simp [refuse])

theorem placeUser_ident_effect (p : Fin 4) (s : State) : ∃ b, placeUser (.ident p) s = { s with bus := b } := by
  simp only [placeUser]
  split <;> exact ⟨_, rfl⟩

theorem placeUser_zero_effect (p : Fin 4) (s : State) : ∃ b, placeUser (.zero p) s = { s with bus := b } := by
  simp only [placeUser]
  split <;> exact ⟨_, rfl⟩


/-! ## Stage selector (chapter 3) -/

theorem stagePolicy_effect (c d : Byte) (g : Half) (h k : Byte) (s : State) : ∃ x,
    (stagePolicy c d g h k s).1 = { s with selector := x } := by
  simp only [stagePolicy]; (repeat' split) <;> exact ⟨_, rfl⟩

theorem stageRead_effect (s : State) : (stageRead s).1 = s := rfl

theorem observerEntry_effect (h : Half) (t : Word) (s : State) : ∃ x,
    (observerEntry h t s).1 = { s with selector := x } := by
  simp only [observerEntry]; (repeat' split) <;> exact ⟨_, rfl⟩

theorem reselect_effect (s : State) : ∃ x,
    (reselect s).1 = { s with selector := x } := ⟨_, rfl⟩


/-! ## Rating store and discharge unit (chapters 4 and 5) -/

theorem ratingBegin_effect (k : Byte) (e : Word) (w : Half) (s : State) : ∃ r,
    (ratingBegin k e w s).1 = { s with ratings := r } := by
  simp only [ratingBegin]; (repeat' split) <;> exact ⟨_, rfl⟩

theorem ratingPoints_effect (k : Byte) (l : List PointField) (s : State) : ∃ r,
    (ratingPoints k l s).1 = { s with ratings := r } := by
  simp only [ratingPoints]; (repeat' split) <;> exact ⟨_, rfl⟩

theorem ratingFinish_effect (k : Byte) (s : State) : ∃ r,
    (ratingFinish k s).1 = { s with ratings := r } := by
  simp only [ratingFinish]; (repeat' split) <;> exact ⟨_, rfl⟩

theorem shiftRemove_effect (k : Byte) (t : Word) (s : State) : ∃ r,
    (shiftRemove k t s).1 = { s with ratings := r } := by
  simp only [shiftRemove]; (repeat' split) <;> exact ⟨_, rfl⟩

theorem writeShift_effect (k : Fin 3) (x : Shift) (s : State) : ∃ r,
    (writeShift k x s).1 = { s with ratings := r } := by
  simp only [writeShift]; (repeat' split) <;> exact ⟨_, rfl⟩

theorem shiftPut_effect (k : Byte) (t : Word) (v : Half) (s : State) : ∃ r,
    (shiftPut k t v s).1 = { s with ratings := r } := by
  simp only [shiftPut]
  (repeat' split) <;> first | exact ⟨_, rfl⟩ | exact writeShift_effect _ _ s

theorem ratingRetire_effect (k : Byte) (s : State) : ∃ r att,
    (ratingRetire k s).1 = { s with ratings := r, host := { s.host with attention := att } } := by
  simp only [ratingRetire]; (repeat' split) <;> exact ⟨_, _, rfl⟩

theorem ratingRead_effect (k i : Byte) (s : State) : (ratingRead k i s).1 = s := by
  simp only [ratingRead]; (repeat' split) <;> exact rfl

theorem shiftRead_effect (k : Byte) (s : State) : (shiftRead k s).1 = s := by
  simp only [shiftRead]; (repeat' split) <;> exact rfl

theorem flowRead_effect (s : State) : (flowRead s).1 = s := rfl


/-! ## Watch unit (chapter 6) -/

theorem putWatch_effect (k : Fin 24) (w : Option Watch) (s : State) : ∃ wu ca me ga att,
    putWatch k w s = { s with watches := wu, carriage := ca, meter := me, gaugings := ga, host := { s.host with attention := att } } := by
  refine ⟨(putWatch k w s).watches, (putWatch k w s).carriage, (putWatch k w s).meter, (putWatch k w s).gaugings, (putWatch k w s).host.attention, State.eq_of_fields ?_ (CommandPort.eq_of_fields ?_ ?_ ?_ ?_ rfl ?_ ?_) ?_ ?_ ?_ ?_ ?_ ?_ rfl rfl rfl rfl ?_ ?_⟩ <;>
    (simp only [putWatch]; (repeat' split) <;> simp [refuse])

theorem watchPut_effect (k su di : Byte) (th re : Word) (ra cl le li wi ol : Byte) (s : State) : ∃ wu ca me ga att,
    (watchPut k su di th re ra cl le li wi ol s).1 = { s with watches := wu, carriage := ca, meter := me, gaugings := ga, host := { s.host with attention := att } } := by
  refine ⟨((watchPut k su di th re ra cl le li wi ol s).1).watches, ((watchPut k su di th re ra cl le li wi ol s).1).carriage, ((watchPut k su di th re ra cl le li wi ol s).1).meter, ((watchPut k su di th re ra cl le li wi ol s).1).gaugings, ((watchPut k su di th re ra cl le li wi ol s).1).host.attention, State.eq_of_fields ?_ (CommandPort.eq_of_fields ?_ ?_ ?_ ?_ rfl ?_ ?_) ?_ ?_ ?_ ?_ ?_ ?_ rfl rfl rfl rfl ?_ ?_⟩ <;>
    (simp only [watchPut]; (repeat' split) <;> simp [refuse, refuseWatch])

theorem watchAck_effect (k : Byte) (s : State) : ∃ wu ca me ga att,
    (watchAck k s).1 = { s with watches := wu, carriage := ca, meter := me, gaugings := ga, host := { s.host with attention := att } } := by
  refine ⟨((watchAck k s).1).watches, ((watchAck k s).1).carriage, ((watchAck k s).1).meter, ((watchAck k s).1).gaugings, ((watchAck k s).1).host.attention, State.eq_of_fields ?_ (CommandPort.eq_of_fields ?_ ?_ ?_ ?_ rfl ?_ ?_) ?_ ?_ ?_ ?_ ?_ ?_ rfl rfl rfl rfl ?_ ?_⟩ <;>
    (simp only [watchAck]; (repeat' split) <;> simp [refuse, refuseWatch])

theorem watchRemove_effect (k : Byte) (s : State) : ∃ wu ca me ga att,
    (watchRemove k s).1 = { s with watches := wu, carriage := ca, meter := me, gaugings := ga, host := { s.host with attention := att } } := by
  refine ⟨((watchRemove k s).1).watches, ((watchRemove k s).1).carriage, ((watchRemove k s).1).meter, ((watchRemove k s).1).gaugings, ((watchRemove k s).1).host.attention, State.eq_of_fields ?_ (CommandPort.eq_of_fields ?_ ?_ ?_ ?_ rfl ?_ ?_) ?_ ?_ ?_ ?_ ?_ ?_ rfl rfl rfl rfl ?_ ?_⟩ <;>
    (simp only [watchRemove]; (repeat' split) <;> simp [refuse, refuseWatch])

theorem watchRead_effect (k : Byte) (s : State) : (watchRead k s).1 = s := by
  simp only [watchRead]; (repeat' split) <;> exact rfl

theorem lineConfig_effect (b : Byte) (s : State) : ∃ wu,
    (lineConfig b s).1 = { s with watches := wu } := ⟨_, rfl⟩


/-! ## Cableway and winch link (chapter 7) -/

theorem cablewayConfig_effect (t : Half) (s : State) : ∃ ca,
    (cablewayConfig t s).1 = { s with carriage := ca } := ⟨_, rfl⟩

theorem cablewayRead_effect (s : State) : (cablewayRead s).1 = s := rfl

theorem cablewayHome_effect (s : State) : ∃ ca me att,
    (cablewayHome s).1 = { s with carriage := ca, meter := me, host := { s.host with attention := att } } := by
  refine ⟨((cablewayHome s).1).carriage, ((cablewayHome s).1).meter, ((cablewayHome s).1).host.attention, State.eq_of_fields ?_ (CommandPort.eq_of_fields ?_ ?_ ?_ ?_ rfl ?_ ?_) ?_ ?_ ?_ ?_ ?_ ?_ ?_ rfl rfl ?_ ?_ ?_⟩ <;>
    (simp only [cablewayHome]; (repeat' split) <;> simp [refuse])

theorem cablewayHalt_effect (s : State) : ∃ ca me ga att,
    (cablewayHalt s).1 = { s with carriage := ca, meter := me, gaugings := ga, host := { s.host with attention := att } } := by
  refine ⟨((cablewayHalt s).1).carriage, ((cablewayHalt s).1).meter, ((cablewayHalt s).1).gaugings, ((cablewayHalt s).1).host.attention, State.eq_of_fields ?_ (CommandPort.eq_of_fields ?_ ?_ ?_ ?_ rfl ?_ ?_) ?_ ?_ ?_ ?_ ?_ ?_ ?_ rfl rfl rfl ?_ ?_⟩ <;>
    (simp only [cablewayHalt]; (repeat' split) <;> simp [refuse])

theorem holdAsserts_effect (s : State) : ∃ ca me att,
    holdAsserts s = { s with carriage := ca, meter := me, host := { s.host with attention := att } } := by
  refine ⟨(holdAsserts s).carriage, (holdAsserts s).meter, (holdAsserts s).host.attention, State.eq_of_fields ?_ (CommandPort.eq_of_fields ?_ ?_ ?_ ?_ rfl ?_ ?_) ?_ ?_ ?_ ?_ ?_ ?_ ?_ rfl rfl ?_ ?_ ?_⟩ <;>
    (simp only [holdAsserts]; (repeat' split) <;> simp [refuse])

theorem holdReleases_effect (s : State) : ∃ ca me att,
    holdReleases s = { s with carriage := ca, meter := me, host := { s.host with attention := att } } := by
  refine ⟨(holdReleases s).carriage, (holdReleases s).meter, (holdReleases s).host.attention, State.eq_of_fields ?_ (CommandPort.eq_of_fields ?_ ?_ ?_ ?_ rfl ?_ ?_) ?_ ?_ ?_ ?_ ?_ ?_ ?_ rfl rfl ?_ ?_ ?_⟩ <;>
    (simp only [holdReleases]; (repeat' split) <;> simp [refuse])

theorem touchBed_effect (s : State) : ∃ ca me ga att,
    touchBed s = { s with carriage := ca, meter := me, gaugings := ga, host := { s.host with attention := att } } := by
  refine ⟨(touchBed s).carriage, (touchBed s).meter, (touchBed s).gaugings, (touchBed s).host.attention, State.eq_of_fields ?_ (CommandPort.eq_of_fields ?_ ?_ ?_ ?_ rfl ?_ ?_) ?_ ?_ ?_ ?_ ?_ ?_ ?_ rfl rfl rfl ?_ ?_⟩ <;>
    (simp only [touchBed]; (repeat' split) <;> simp [refuse])

/-- `t` differs from `s` at most in what a message of the winch can rewrite: the carriage, the meter, the gaugings and the
attention summary. -/
def LinkOnly (s t : State) : Prop := ∃ ca me ga att,
  t = { s with carriage := ca, meter := me, gaugings := ga, host := { s.host with attention := att } }

theorem LinkOnly.refl (s : State) : LinkOnly s s := ⟨_, _, _, _, rfl⟩

theorem LinkOnly.trans {s t u : State} (h : LinkOnly s t) (k : LinkOnly t u) : LinkOnly s u := by
  obtain ⟨_, _, _, _, rfl⟩ := h
  obtain ⟨_, _, _, _, rfl⟩ := k
  exact ⟨_, _, _, _, rfl⟩

theorem withWrx_effect (r : Receiver) (s : State) : LinkOnly s (withWrx r s) := ⟨_, _, _, _, rfl⟩

theorem discardMessage_effect (e : LinkError) (s : State) : LinkOnly s (discardMessage e s) := ⟨_, _, _, _, rfl⟩

theorem answered_effect (c : Carriage) (s : State) : ∃ ca me ga att,
    answered c s = { s with carriage := ca, meter := me, gaugings := ga, host := { s.host with attention := att } } := by
  refine ⟨(answered c s).carriage, (answered c s).meter, (answered c s).gaugings, (answered c s).host.attention, State.eq_of_fields ?_ (CommandPort.eq_of_fields ?_ ?_ ?_ ?_ rfl ?_ ?_) ?_ ?_ ?_ ?_ ?_ ?_ ?_ rfl rfl rfl ?_ ?_⟩ <;>
    (simp only [answered]; (repeat' split) <;> simp [refuse])

theorem arrivedComes_effect (s : State) : LinkOnly s (arrivedComes s) := by
  simp only [arrivedComes]
  (repeat' split) <;> first | exact discardMessage_effect .. | exact answered_effect .. | exact ⟨_, _, _, _, rfl⟩

theorem winchFaults_effect (k : Byte) (s : State) : LinkOnly s (winchFaults k s) := by
  refine ⟨(winchFaults k s).carriage, (winchFaults k s).meter, (winchFaults k s).gaugings, (winchFaults k s).host.attention, State.eq_of_fields ?_ (CommandPort.eq_of_fields ?_ ?_ ?_ ?_ rfl ?_ ?_) ?_ ?_ ?_ ?_ ?_ ?_ ?_ rfl rfl rfl ?_ ?_⟩ <;>
    simp [winchFaults]

theorem reportComes_effect (r : WinchReport) (s : State) : LinkOnly s (reportComes r s) := by
  cases r
  · exact ⟨_, _, _, _, rfl⟩
  · exact arrivedComes_effect s
  · exact winchFaults_effect _ s

theorem messageComes_effect (m : WinchMessage) (s : State) : LinkOnly s (messageComes m s) := by
  simp only [messageComes]
  split
  · exact discardMessage_effect ..
  · exact reportComes_effect ..
  · exact .refl s

theorem takeChar_effect (s : State) (c : RxChar) : LinkOnly s (takeChar s c) := by
  simp only [takeChar]
  split
  · exact (withWrx_effect ..).trans (messageComes_effect ..)
  · exact withWrx_effect ..

theorem takeHeld_effect (s : State) : LinkOnly s (takeHeld s) := by
  simp only [takeHeld]
  split
  · exact .refl s
  · exact (withWrx_effect ..).trans (takeChar_effect ..)

theorem takeChars_effect (l : List RxChar) (s : State) : LinkOnly s (l.foldl takeChar s) := by
  induction l generalizing s with
  | nil => exact .refl s
  | cons c l ih => exact (takeChar_effect s c).trans (ih _)

theorem gapEnds_effect (s : State) : LinkOnly s (gapEnds s) := by
  simp only [gapEnds]
  split
  · exact .refl s
  · exact (withWrx_effect ..).trans (messageComes_effect ..)

theorem winchSends_effect (m : WinchMessage) (s : State) : LinkOnly s (winchSends m s) := by
  have h : LinkOnly s (if s.carriage.rx.begins m.chars then takeHeld (noteLoss m.overrun s)
      else noteLoss m.overrun (takeHeld s)) := by
    split
    · exact (withWrx_effect ..).trans (takeHeld_effect _)
    · exact (takeHeld_effect s).trans (withWrx_effect ..)
  simp only [winchSends]
  split
  · exact (h.trans (takeChars_effect ..)).trans (gapEnds_effect _)
  · exact h.trans (takeChars_effect ..)

theorem wrxDelivers_effect (c : RxChar) (k : Bool) (s : State) : LinkOnly s (wrxDelivers c k s) := by
  have h : LinkOnly s (if k = true then takeHeld s else s) := by
    split
    · exact takeHeld_effect s
    · exact .refl s
  simp only [wrxDelivers]
  split <;> exact h.trans (withWrx_effect ..)

theorem wrxCompletes_effect (l : List Bool) (k : Bool) (s : State) : LinkOnly s (wrxCompletes l k s) := by
  simp only [wrxCompletes]
  split
  · exact withWrx_effect ..
  · next c _ => exact (withWrx_effect (s.carriage.rx.completedAt l c) s).trans (wrxDelivers_effect ..)

theorem moveTimesOut_effect (s : State) : ∃ ca me ga att,
    moveTimesOut s = { s with carriage := ca, meter := me, gaugings := ga, host := { s.host with attention := att } } := by
  refine ⟨(moveTimesOut s).carriage, (moveTimesOut s).meter, (moveTimesOut s).gaugings, (moveTimesOut s).host.attention, State.eq_of_fields ?_ (CommandPort.eq_of_fields ?_ ?_ ?_ ?_ rfl ?_ ?_) ?_ ?_ ?_ ?_ ?_ ?_ ?_ rfl rfl rfl ?_ ?_⟩ <;>
    (simp only [moveTimesOut]; (repeat' split) <;> simp [refuse])


/-! ## Meter counter (chapter 8) -/

theorem meterConfig_effect (e p a1 : Byte) (b1 : Half) (nb : Word) (a2 : Byte) (b2 : Half) (s : State) : ∃ me,
    (meterConfig e p a1 b1 nb a2 b2 s).1 = { s with meter := me } := by
  simp only [meterConfig]; (repeat' split) <;> exact ⟨_, rfl⟩


/-! ## Gauging unit (chapter 9) -/

theorem gaugingPlan_effect (k d m : Byte) (o u : Half) (s : State) : ∃ ga,
    (gaugingPlan k d m o u s).1 = { s with gaugings := ga } := by
  simp only [gaugingPlan]; (repeat' split) <;> exact ⟨_, rfl⟩

theorem gaugingVerticals_effect (k : Byte) (l : List VerticalField) (s : State) : ∃ ga,
    (gaugingVerticals k l s).1 = { s with gaugings := ga } := by
  simp only [gaugingVerticals]; (repeat' split) <;> exact ⟨_, rfl⟩

theorem gaugingStart_effect (k : Byte) (s : State) : ∃ ca me ga att,
    (gaugingStart k s).1 = { s with carriage := ca, meter := me, gaugings := ga, host := { s.host with attention := att } } := by
  refine ⟨((gaugingStart k s).1).carriage, ((gaugingStart k s).1).meter, ((gaugingStart k s).1).gaugings, ((gaugingStart k s).1).host.attention, State.eq_of_fields ?_ (CommandPort.eq_of_fields ?_ ?_ ?_ ?_ rfl ?_ ?_) ?_ ?_ ?_ ?_ ?_ ?_ ?_ rfl rfl rfl ?_ ?_⟩ <;>
    (simp only [gaugingStart]; (repeat' split) <;> simp [refuse])

theorem gaugingResume_effect (k : Byte) (s : State) : ∃ ca me ga att,
    (gaugingResume k s).1 = { s with carriage := ca, meter := me, gaugings := ga, host := { s.host with attention := att } } := by
  refine ⟨((gaugingResume k s).1).carriage, ((gaugingResume k s).1).meter, ((gaugingResume k s).1).gaugings, ((gaugingResume k s).1).host.attention, State.eq_of_fields ?_ (CommandPort.eq_of_fields ?_ ?_ ?_ ?_ rfl ?_ ?_) ?_ ?_ ?_ ?_ ?_ ?_ ?_ rfl rfl rfl ?_ ?_⟩ <;>
    (simp only [gaugingResume]; (repeat' split) <;> simp [refuse])

theorem gaugingAbort_effect (k : Byte) (s : State) : ∃ ca me ga att,
    (gaugingAbort k s).1 = { s with carriage := ca, meter := me, gaugings := ga, host := { s.host with attention := att } } := by
  refine ⟨((gaugingAbort k s).1).carriage, ((gaugingAbort k s).1).meter, ((gaugingAbort k s).1).gaugings, ((gaugingAbort k s).1).host.attention, State.eq_of_fields ?_ (CommandPort.eq_of_fields ?_ ?_ ?_ ?_ rfl ?_ ?_) ?_ ?_ ?_ ?_ ?_ ?_ ?_ rfl rfl rfl ?_ ?_⟩ <;>
    (simp only [gaugingAbort]; (repeat' split) <;> simp [refuse])

theorem gaugingRead_effect (k i : Byte) (s : State) : (gaugingRead k i s).1 = s := by
  simp only [gaugingRead]; (repeat' split) <;> exact rfl

theorem gaugingRetire_effect (k : Byte) (s : State) : ∃ ga,
    (gaugingRetire k s).1 = { s with gaugings := ga } := by
  simp only [gaugingRetire]; (repeat' split) <;> exact ⟨_, rfl⟩

theorem gaugingAdopt_effect (k : Byte) (v : Option Half) (s : State) : ∃ r ga att, (gaugingAdopt k v s).1 =
    { s with ratings := r, gaugings := ga, host := { s.host with attention := att } } := by
  simp only [gaugingAdopt]
  (repeat' split) <;> try exact ⟨_, _, _, rfl⟩
  simp only [adoptInto]
  split
  · obtain ⟨r, e⟩ := writeShift_effect _ _ s
    rw [e]
    refine ⟨r, _, _, State.eq_of_fields ?_ (CommandPort.eq_of_fields ?_ ?_ ?_ ?_ rfl ?_ ?_) ?_ ?_ ?_ ?_ ?_ ?_ ?_ ?_ ?_ rfl ?_ ?_⟩ <;> simp
  · exact ⟨_, _, _, rfl⟩

end Sys2Proof.Machine
end

