-- ==== Sys2Proof/Laws/Encoding.lean ====
section
/-! SUPPORT. The bytes of a host frame: what the fields of a frame read back as, and the lengths of its lists (R186, R187). -/

namespace Sys2Proof

/-- A two-byte field is its two bytes joined. -/
theorem half_of_bytes (x : Half) : x.extractLsb' 8 8 ++ x.extractLsb' 0 8 = x := by
  ext i hi
  simp only [BitVec.getElem_append, BitVec.getElem_extractLsb']
  split
  · simp [BitVec.getLsbD_eq_getElem, hi]
  · rw [show 8 + (i - 8) = i by omega, BitVec.getLsbD_eq_getElem hi]

/-- A four-byte field is its four bytes joined in two pairs. -/
theorem word_of_bytes (x : Word) :
    (x.extractLsb' 24 8 ++ x.extractLsb' 16 8) ++ (x.extractLsb' 8 8 ++ x.extractLsb' 0 8) = x := by
  ext i hi
  simp only [BitVec.getElem_append, BitVec.getElem_extractLsb']
  (repeat' split) <;> (try rw [BitVec.getLsbD_eq_getElem (by omega)]) <;> congr 1 <;> omega

/-- Lists laid out entry by entry in a fixed width have that width times their length in bytes. -/
theorem flatMap_length {α : Type} {f : α → List Byte} {n : Nat} (hf : ∀ a, (f a).length = n) (l : List α) :
    (l.flatMap f).length = n * l.length := by
  induction l with
  | nil => rfl
  | cons a l ih => rw [List.flatMap_cons, List.length_append, ih, hf, List.length_cons, Nat.mul_succ, Nat.add_comm]

/-- The byte at an offset inside an entry of a list laid out in a fixed width. -/
theorem flatMap_getD {α : Type} {f : α → List Byte} {n : Nat} (hf : ∀ a, (f a).length = n) (l : List α) (i j : Nat)
    (hi : i < l.length) (hj : j < n) (d : Byte) : (l.flatMap f).getD (n * i + j) d = (f l[i]).getD j d := by
  induction l generalizing i with
  | nil => exact absurd hi (Nat.not_lt_zero _)
  | cons a l ih =>
    rw [List.flatMap_cons]
    cases i with
    | zero =>
      have : j < (f a).length := by rw [hf]; exact hj
      simp [List.getD_eq_getElem?_getD, List.getElem?_append_left this]
    | succ i =>
      have hle : (f a).length ≤ n * (i + 1) + j := by rw [hf, Nat.mul_succ]; omega
      rw [List.getD_eq_getElem?_getD, List.getElem?_append_right hle, ← List.getD_eq_getElem?_getD, hf,
        show n * (i + 1) + j - n = n * i + j by rw [Nat.mul_succ]; omega, ih i (by simpa using hi)]
      rfl

@[simp] theorem PointField.bytes_length (x : PointField) : x.bytes.length = 6 := rfl

@[simp] theorem VerticalField.bytes_length (x : VerticalField) : x.bytes.length = 12 := rfl

/-- A byte of a list's entry, behind the two bytes that stand before the list. -/
theorem listed_getD {α : Type} {f : α → List Byte} {n : Nat} (hf : ∀ a, (f a).length = n) (l : List α) (a b : Byte)
    {i : Nat} (hi : i < l.length) (m j : Nat) (hm : m = n * i + j + 2) (hj : j < n) :
    (a :: b :: l.flatMap f).getD m 0 = (f l[i]).getD j 0 := by
  rw [← flatMap_getD hf l i j hi hj 0, hm]
  rfl

/-- R187: the points of a frame read back as they were laid out. -/
theorem pointsAt_bytes (slot n : Byte) (l : List PointField) (hn : n.toNat = l.length) :
    pointsAt (slot :: n :: l.flatMap PointField.bytes) = l := by
  unfold pointsAt
  rw [show (slot :: n :: l.flatMap PointField.bytes).getD 1 0 = n from rfl, hn]
  apply List.ext_getElem (by simp)
  intro i _ hi
  have q := listed_getD PointField.bytes_length l slot n hi
  simp only [List.getElem_map, List.getElem_range, halfAt, wordAt]
  rw [q (2 + 6 * i) 0 (by omega) (by decide), q (2 + 6 * i + 1) 1 (by omega) (by decide),
    q (4 + 6 * i) 2 (by omega) (by decide), q (4 + 6 * i + 1) 3 (by omega) (by decide),
    q (4 + 6 * i + 2) 4 (by omega) (by decide), q (4 + 6 * i + 2 + 1) 5 (by omega) (by decide)]
  rcases l[i] with ⟨a, b⟩
  exact congr (congrArg PointField.mk (half_of_bytes a)) (word_of_bytes b)

/-- R187: the verticals of a frame read back as they were laid out. -/
theorem verticalsAt_bytes (slot n : Byte) (l : List VerticalField) (hn : n.toNat = l.length) :
    verticalsAt (slot :: n :: l.flatMap VerticalField.bytes) = l := by
  unfold verticalsAt
  rw [show (slot :: n :: l.flatMap VerticalField.bytes).getD 1 0 = n from rfl, hn]
  apply List.ext_getElem (by simp)
  intro i _ hi
  have q := listed_getD VerticalField.bytes_length l slot n hi
  simp only [List.getElem_map, List.getElem_range, halfAt, wordAt]
  rw [q (2 + 12 * i) 0 (by omega) (by decide), q (2 + 12 * i + 1) 1 (by omega) (by decide),
    q (2 + 12 * i + 2) 2 (by omega) (by decide), q (2 + 12 * i + 2 + 1) 3 (by omega) (by decide),
    q (6 + 12 * i) 4 (by omega) (by decide), q (7 + 12 * i) 5 (by omega) (by decide),
    q (8 + 12 * i) 6 (by omega) (by decide), q (8 + 12 * i + 1) 7 (by omega) (by decide),
    q (10 + 12 * i) 8 (by omega) (by decide), q (10 + 12 * i + 1) 9 (by omega) (by decide),
    q (12 + 12 * i) 10 (by omega) (by decide), q (12 + 12 * i + 1) 11 (by omega) (by decide)]
  rcases l[i] with ⟨a, b, c, d, e, g⟩
  simp only [VerticalField.mk.injEq]
  exact ⟨word_of_bytes a, rfl, rfl, half_of_bytes d, half_of_bytes e, half_of_bytes g⟩

end Sys2Proof
end

