-- ==== Sys2Proof/Laws/Ports.lean ====
section
/-! SUPPORT. What the port controller's shared operations do: the sequencer's take, a record's move and its offer for
power (R6, R7, R22). -/

namespace Sys2Proof.Machine

theorem anyPowering_iff (v : Vector Port 4) : anyPowering v = true ↔ ∃ p : Fin 4, (v.get p).state = .powering := by
  simp only [anyPowering, List.any_eq_true, Vector.mem_toList_iff, Vector.mem_iff_getElem, beq_iff_eq]
  constructor
  · rintro ⟨r, ⟨i, hi, rfl⟩, h⟩; exact ⟨⟨i, hi⟩, h⟩
  · rintro ⟨p, h⟩; exact ⟨_, ⟨p.val, p.isLt, rfl⟩, h⟩

theorem anyPowering_false_iff (v : Vector Port 4) :
    anyPowering v = false ↔ ∀ p : Fin 4, (v.get p).state ≠ .powering := by
  rw [← Bool.not_eq_true, anyPowering_iff, not_exists]

/-! ## The write of a record (R5, R17) -/

@[simp] theorem settled_state (old r : Port) : (old.settled r).state = r.state := rfl
@[simp] theorem settled_silent (old r : Port) : (old.settled r).silent = r.silentNow := rfl

/-- A record written over itself with its silent field in order is unchanged but for that write's fields. -/
theorem settled_eq (old r : Port) :
    old.settled r = { r with silent := r.silentNow, blinkLit := (old.settled r).blinkLit } := rfl

/-- The lamp of a record that does not blink is in no lit half after a write, when it was in none before. -/
theorem settled_blinkLit_steady {old r : Port} (ho : old.blinkLit = true → old.lamp.blinks = true)
    (hr : (lampPattern r.state r.silentNow).blinks = false) : (old.settled r).blinkLit = false := by
  have hl : (Port.lamp { r with silent := r.silentNow }) = lampPattern r.state r.silentNow := rfl
  simp only [Port.settled, hl]
  split
  · next h =>
    cases hb : old.blinkLit
    · rfl
    · rw [← h, hr] at ho; exact absurd (ho hb) (by simp)
  · exact hr

/-- The lamp starts lit when a write brings it to a blinking pattern that it did not show before. -/
theorem settled_blinkLit_new {old r : Port} (hn : old.lamp ≠ lampPattern r.state r.silentNow)
    (hr : (lampPattern r.state r.silentNow).blinks = true) : (old.settled r).blinkLit = true := by
  have hl : (Port.lamp { r with silent := r.silentNow }) = lampPattern r.state r.silentNow := rfl
  simp only [Port.settled, hl, if_neg hn.symm, hr]

/-- A write that changes neither the state nor the miss fields of a record in order writes it as given, and sets no member. -/
theorem storePort_plain {p : Fin 4} {r : Port} {s : State} (ho : (s.ports.get p).silent = (s.ports.get p).silentNow)
    (hst : r.state = (s.ports.get p).state) (hl : r.missLimit = (s.ports.get p).missLimit)
    (hc : r.missCount = (s.ports.get p).missCount) (hs : r.silent = (s.ports.get p).silent)
    (hb : r.blinkLit = (s.ports.get p).blinkLit) : storePort p r s = { s with ports := putAt s.ports p r } := by
  have hn : r.silentNow = r.silent := by rw [hs, ho]; simp [Port.silentNow, hst, hl, hc]
  have hlamp : Port.lamp { r with silent := r.silentNow } = (s.ports.get p).lamp := by
    simp [Port.lamp, hn, hs, hst]
  have he : (s.ports.get p).settled r = r := by
    rw [settled_eq, show ((s.ports.get p).settled r).blinkLit = r.blinkLit by
      simp only [Port.settled, if_pos hlamp, ← hb], hn]
  have hm : (s.ports.get p).marks r = false := by simp [Port.marks, hst, hs]
  simp [storePort, he, hm, addMemberIf]

/-- A write sets the port's member when the state changes. -/
theorem storePort_member {p : Fin 4} {r : Port} {s : State} (h : (s.ports.get p).state ≠ r.state) :
    hasMember (storePort p r s).host.attention (.port p) = true := by
  have hm : (s.ports.get p).marks ((s.ports.get p).settled r) = true := by simp [Port.marks, h]
  simp [storePort, hm]

/-- A write keeps the members that are set. -/
theorem storePort_keeps {p : Fin 4} {r : Port} {s : State} {m : Member} (h : hasMember s.host.attention m = true) :
    hasMember (storePort p r s).host.attention m = true := by
  simp only [storePort, addMemberIf_attention]
  split
  · exact hasMember_withMember_of _ h
  · exact h

/-! ## The sequencer's take (R7) -/

theorem sequencerTake_idle {s : State} (h : s.powerQueue = [] ∨ anyPowering s.ports = true) : sequencerTake s = s := by
  unfold sequencerTake
  rcases h with h | h
  · simp [h]
  · split <;> simp [h]

theorem sequencerTake_front {s : State} {p : Fin 4} {rest : List (Fin 4)} (hq : s.powerQueue = p :: rest)
    (h : anyPowering s.ports = false) : sequencerTake s =
      storePort p { s.ports.get p with state := .powering, timer := some (s.ports.get p).pgMode.wait }
        { s with powerQueue := rest } := by
  unfold sequencerTake
  simp [hq, h]

/-- The take changes no port but the front of the queue, which it brings to POWERING. -/
theorem sequencerTake_port (s : State) (q : Fin 4) : (sequencerTake s).ports.get q = s.ports.get q ∨
    (s.powerQueue.head? = some q ∧ ((sequencerTake s).ports.get q).state = .powering) := by
  cases hq : s.powerQueue with
  | nil => exact .inl (by rw [sequencerTake_idle (.inl hq)])
  | cons p rest =>
    cases ha : anyPowering s.ports with
    | true => exact .inl (by rw [sequencerTake_idle (.inr ha)])
    | false =>
      rw [sequencerTake_front hq ha]
      by_cases hpq : q = p
      · subst hpq; exact .inr ⟨rfl, by simp⟩
      · exact .inl (by simp [putAt_get_ne _ _ hpq])

/-- The take leaves a port that is not in the queue as it was. -/
theorem sequencerTake_port_of_not_mem {s : State} {q : Fin 4} (h : q ∉ s.powerQueue) :
    (sequencerTake s).ports.get q = s.ports.get q :=
  (sequencerTake_port s q).resolve_right fun ⟨hq, _⟩ => h (List.mem_of_mem_head? hq)

/-- The take adds no member but keeps those that are set. -/
theorem sequencerTake_keeps {s : State} {m : Member} (h : hasMember s.host.attention m = true) :
    hasMember (sequencerTake s).host.attention m = true := by
  unfold sequencerTake
  (repeat' split) <;> first | exact h | exact storePort_keeps h

theorem sequencerTake_queue_subset (s : State) : (sequencerTake s).powerQueue ⊆ s.powerQueue := by
  unfold sequencerTake
  (repeat' split) <;> simp_all

/-! ## The law of the power queue (R7) -/

/-- The law rests on the ports and the queue alone. -/
theorem powerLaw_congr {s t : State} (h : PowerLaw s) (hp : t.ports = s.ports) (hq : t.powerQueue = s.powerQueue) :
    PowerLaw t := by
  constructor
  · rw [hq]; exact h.once
  · rw [hq, hp]; exact h.waiting
  · rw [hp]; exact h.single
  · rw [hq, hp]; exact h.served

/-- The take restores the law where only the service of a waiting port is missing. -/
theorem sequencerTake_powerLaw {s : State} (ho : s.powerQueue.Nodup)
    (hw : ∀ p : Fin 4, p ∈ s.powerQueue ↔ (s.ports.get p).state = .waiting)
    (hs : ∀ p q : Fin 4, (s.ports.get p).state = .powering → (s.ports.get q).state = .powering → p = q) :
    PowerLaw (sequencerTake s) := by
  cases ha : anyPowering s.ports with
  | true =>
    rw [sequencerTake_idle (.inr ha)]
    exact ⟨ho, hw, hs, fun _ => (anyPowering_iff _).mp ha⟩
  | false =>
    cases hq : s.powerQueue with
    | nil =>
      rw [sequencerTake_idle (.inl hq)]
      exact ⟨ho, hw, hs, fun h => absurd hq h⟩
    | cons p rest =>
      rw [hq] at ho hw
      have hp := (anyPowering_false_iff _).mp ha
      rw [sequencerTake_front hq ha]
      refine ⟨?_, fun q => ?_, fun q r h1 h2 => ?_, fun _ => ⟨p, by simp⟩⟩
      · simpa using ho.of_cons
      · by_cases hqp : q = p
        · subst hqp
          simpa using (List.nodup_cons.mp ho).1
        · have := hw q
          simp only [List.mem_cons, hqp, false_or] at this
          simpa [putAt_get_ne _ _ hqp] using this
      · have key : ∀ j : Fin 4, ((storePort p { s.ports.get p with state := .powering, timer := some (s.ports.get p).pgMode.wait }
            { s with powerQueue := rest }).ports.get j).state = .powering → j = p := by
          intro j hj
          by_contra hne
          rw [storePort_ports, putAt_get_ne _ _ hne] at hj
          exact hp j hj
        rw [key q h1, key r h2]

/-- A write that takes a port neither into nor out of WAITING and POWERING keeps the law. -/
theorem storePort_powerLaw {s : State} {p : Fin 4} {r : Port} (h : PowerLaw s)
    (hw : r.state = .waiting ↔ (s.ports.get p).state = .waiting)
    (hp : r.state = .powering ↔ (s.ports.get p).state = .powering) : PowerLaw (storePort p r s) := by
  have hst : ∀ q : Fin 4, (((storePort p r s).ports.get q).state = .waiting ↔ (s.ports.get q).state = .waiting) ∧
      (((storePort p r s).ports.get q).state = .powering ↔ (s.ports.get q).state = .powering) := by
    intro q
    by_cases hq : q = p
    · subst hq; simp [hw, hp]
    · simp [putAt_get_ne _ _ hq]
  constructor
  · simpa using h.once
  · intro q; rw [(hst q).1]; simpa using h.waiting q
  · intro q j; rw [(hst q).2, (hst j).2]; exact h.single q j
  · intro hq
    obtain ⟨q, hp⟩ := h.served (by simpa using hq)
    exact ⟨q, (hst q).2.mpr hp⟩

/-- The state before the sequencer's take in a move: the record written and the port out of the queue. -/
theorem movePort_eq (p : Fin 4) (r : Port) (s : State) : ∃ t, movePort p r s = sequencerTake t ∧
    t.ports = putAt s.ports p ((s.ports.get p).settled r) ∧
    t.powerQueue = (if (s.ports.get p).state = .waiting ∧ r.state ≠ .waiting then s.powerQueue.erase p
      else s.powerQueue) := by
  refine ⟨_, rfl, by simp, ?_⟩
  simp only [leavePoll_powerQueue, leaveZero_powerQueue, leaveIdent_powerQueue, leaveQueue]
  split <;> simp

/-- A move to a state other than WAITING and POWERING keeps the law of the power queue. -/
theorem movePort_powerLaw {s : State} {p : Fin 4} {r : Port} (h : PowerLaw s) (hw : r.state ≠ .waiting)
    (hp : r.state ≠ .powering) : PowerLaw (movePort p r s) := by
  obtain ⟨t, he, hports, hq⟩ := movePort_eq p r s
  have hq' : t.powerQueue = s.powerQueue.erase p := by
    rw [hq]
    split
    · rfl
    · next hn =>
      have : p ∉ s.powerQueue := fun hm => hn ⟨(h.waiting p).mp hm, hw⟩
      exact (List.erase_of_not_mem this).symm
  rw [he]
  refine sequencerTake_powerLaw ?_ (fun q => ?_) (fun q j h1 h2 => ?_)
  · rw [hq']; exact h.once.erase p
  · rw [hq', h.once.mem_erase_iff, hports]
    by_cases hqp : q = p
    · subst hqp; simp [hw]
    · simp [putAt_get_ne _ _ hqp, hqp, h.waiting q]
  · have key : ∀ j : Fin 4, (t.ports.get j).state = .powering → (s.ports.get j).state = .powering := by
      intro j hj
      rw [hports] at hj
      by_cases hjp : j = p
      · subst hjp; simp [hp] at hj
      · rwa [putAt_get_ne _ _ hjp] at hj
    exact h.single q j (key q h1) (key j h2)

/-- An offer for power keeps the law of the power queue, when the record keeps its state or becomes EMPTY from a state that
is neither WAITING nor POWERING. -/
theorem offerPower_powerLaw {s : State} {p : Fin 4} {r : Port} (h : PowerLaw s)
    (hr : r.state = (s.ports.get p).state ∨
      (r.state = .empty ∧ (s.ports.get p).state ≠ .waiting ∧ (s.ports.get p).state ≠ .powering)) :
    PowerLaw (offerPower p r s) := by
  simp only [offerPower]
  split
  · next hwp =>
    have hre : r.state = .empty := by
      simp only [Port.wantsPower, Bool.and_eq_true, beq_iff_eq] at hwp; exact hwp.1.1.1.1
    have hold : (s.ports.get p).state ≠ .waiting ∧ (s.ports.get p).state ≠ .powering := by
      rcases hr with hr | hr
      · rw [← hr, hre]; exact ⟨by decide, by decide⟩
      · exact hr.2
    have hreq : r.requested.state = .waiting := by simp [Port.requested, hwp]
    have hnot : p ∉ s.powerQueue := fun hm => hold.1 ((h.waiting p).mp hm)
    refine sequencerTake_powerLaw ?_ (fun q => ?_) (fun q j h1 h2 => ?_)
    · simpa [List.nodup_append] using ⟨h.once, fun a ha e => hnot (e ▸ ha)⟩
    · by_cases hqp : q = p
      · subst hqp; simp [hreq]
      · simp [putAt_get_ne _ _ hqp, hqp, h.waiting q]
    · have key : ∀ j : Fin 4, ((putAt s.ports p ((s.ports.get p).settled r.requested)).get j).state = .powering →
          (s.ports.get j).state = .powering := by
        intro j hj
        by_cases hjp : j = p
        · subst hjp; simp [hreq] at hj
        · rwa [putAt_get_ne _ _ hjp] at hj
      simp only [storePort_ports] at h1 h2
      exact h.single q j (key q h1) (key j h2)
  · next hwp =>
    have hreq : r.requested = r := by simp [Port.requested, hwp]
    rw [hreq]
    apply storePort_powerLaw h
    · rcases hr with hr | hr
      · rw [hr]
      · rw [hr.1]; exact ⟨fun e => by simp at e, fun e => absurd e hr.2.1⟩
    · rcases hr with hr | hr
      · rw [hr]
      · rw [hr.1]; exact ⟨fun e => by simp at e, fun e => absurd e hr.2.2⟩

/-! ## The offer for power (R6, R7) -/

/-- A record without the four conditions is written, and no more. -/
theorem offerPower_not {p : Fin 4} {r : Port} {s : State} (h : r.wantsPower = false) :
    offerPower p r s = storePort p r s := by simp [offerPower, Port.requested, h]

/-- The powering of no port changes when a port that is not POWERING is written as one that is not. -/
theorem anyPowering_putAt {v : Vector Port 4} {p : Fin 4} {r : Port} (h : (v.get p).state ≠ .powering)
    (hr : r.state ≠ .powering) : anyPowering (putAt v p r) = anyPowering v := by
  rw [Bool.eq_iff_iff, anyPowering_iff, anyPowering_iff]
  refine exists_congr fun q => ?_
  by_cases hq : q = p
  · subst hq; simp [h, hr]
  · simp [putAt_get_ne _ _ hq]

/-- With the inrush budget taken, a record with the four conditions waits at the back of the power queue. -/
theorem offerPower_waits {p : Fin 4} {r : Port} {s : State} (h : r.wantsPower = true)
    (hold : (s.ports.get p).state ≠ .powering) (ha : anyPowering s.ports = true) : offerPower p r s =
      { storePort p { r with state := .waiting } s with powerQueue := s.powerQueue ++ [p] } := by
  simp only [offerPower, Port.requested, h, if_true, storePort_powerQueue]
  refine sequencerTake_idle (.inr ?_)
  simp only [storePort_ports]
  rw [anyPowering_putAt hold (by simp)]
  exact ha

/-- With the inrush budget free and no port waiting, a record with the four conditions is powered at once. -/
theorem offerPower_powers {p : Fin 4} {r : Port} {s : State} (h : r.wantsPower = true)
    (hold : (s.ports.get p).state ≠ .powering) (ha : anyPowering s.ports = false) (hq : s.powerQueue = []) :
    offerPower p r s =
      storePort p { (s.ports.get p).settled { r with state := .waiting } with
          state := .powering, timer := some r.pgMode.wait }
        { storePort p { r with state := .waiting } s with powerQueue := [] } := by
  simp only [offerPower, Port.requested, h, if_true, storePort_powerQueue]
  rw [sequencerTake_front (p := p) (rest := []) (by simp [hq])]
  · simp only [storePort_ports, putAt_get_self]; rfl
  · simp only [storePort_ports]
    rw [anyPowering_putAt hold (by simp)]
    exact ha

end Sys2Proof.Machine
end

