-- ==== Sys2Proof/Laws/Line.lean ====
section
/-! SUPPORT. What the line's shared operations do: the grant, the service of a free line, the arrival of a user and the end
of a claim (R31, R33). -/

namespace Sys2Proof.Machine

/-- A free line given to a queue: rounds without members close and drop out at its front, and what is left is the line's
claims; the reply statuses stand, and a line left free has no queue. -/
theorem grantFrom_spec (l : List LineUser) (s : State) (h : s.bus.holder = .free) :
    (grantFrom l s).bus.status = s.bus.status ∧
      ((grantFrom l s).bus.holder = .free → (grantFrom l s).bus.queue = []) ∧
      ∃ n, l = List.replicate n .round ++ (grantFrom l s).bus.users := by
  induction l generalizing s with
  | nil => exact ⟨rfl, fun _ => rfl, 0, by simp [grantFrom, Bus.users, h]⟩
  | cons u rest ih =>
    cases u with
    | round =>
      simp only [grantFrom]
      split
      · obtain ⟨h1, h2, n, hn⟩ := ih (handRound [] s) (by simpa using h)
        exact ⟨by simpa using h1, h2, n + 1, by rw [List.replicate_succ, List.cons_append, ← hn]⟩
      · exact ⟨rfl, fun e => by simp [Bus.taken] at e, 0, by simp [Bus.users, Bus.taken]⟩
    | ident p => exact ⟨rfl, fun e => by simp [grantFrom, Bus.taken] at e, 0, by simp [grantFrom, Bus.users, Bus.taken]⟩
    | zero p => exact ⟨rfl, fun e => by simp [grantFrom, Bus.taken] at e, 0, by simp [grantFrom, Bus.users, Bus.taken]⟩

/-- A held line, or a free one with no queue, is served without a change of its claims. -/
theorem serveLine_held {s : State} (h : s.bus.holder ≠ .free) : serveLine s = s := by simp [serveLine, h]

/-- A free line with no queue stays so when served. -/
theorem serveLine_empty {s : State} (h : s.bus.holder = .free) (hq : s.bus.queue = []) : serveLine s = s := by
  simp only [serveLine, if_pos h, hq, grantFrom, withBus]
  exact State.eq_of_fields rfl rfl rfl rfl (by cases hb : s.bus; simp_all) rfl rfl rfl rfl rfl rfl rfl rfl rfl

/-- The service of a free line. -/
theorem serveLine_spec {s : State} (h : s.bus.holder = .free) : (serveLine s).bus.status = s.bus.status ∧
    ((serveLine s).bus.holder = .free → (serveLine s).bus.queue = []) ∧
      ∃ n, s.bus.queue = List.replicate n .round ++ (serveLine s).bus.users := by
  simp only [serveLine, if_pos h]
  exact grantFrom_spec _ s h

/-- The arrival of a user on a line that is held. -/
theorem placeUser_held {u : LineUser} {s : State} (h : s.bus.holder ≠ .free) :
    placeUser u s = withBus (fun b => { b with queue := b.queue ++ [u] }) s := by simp [placeUser, h]

/-- The arrival of a port's user on a free line with no queue. -/
theorem placeUser_free {u : LineUser} {s : State} (h : s.bus.holder = .free) (hq : s.bus.queue = []) (hu : u ≠ .round) :
    placeUser u s = withBus (fun b => { b with queue := [] }.taken u []) s := by
  cases u <;> simp_all [placeUser, grantFrom]

/-- The arrival of a user: the claims are those before it and its own, but for a round that closes at once. -/
theorem placeUser_spec (u : LineUser) {s : State} (h : s.bus.holder = .free → s.bus.queue = []) :
    (placeUser u s).bus.status = s.bus.status ∧
      ((placeUser u s).bus.holder = .free → (placeUser u s).bus.queue = []) ∧
        ∃ n, s.bus.users ++ [u] = List.replicate n .round ++ (placeUser u s).bus.users := by
  by_cases hf : s.bus.holder = .free
  · simp only [placeUser, hf, h hf, and_self, if_true]
    have := grantFrom_spec [u] s hf
    simpa [Bus.users, hf, h hf] using this
  · rw [placeUser_held hf]
    refine ⟨rfl, fun e => absurd e hf, 0, ?_⟩
    cases hh : s.bus.holder <;> simp [Bus.users, hh]

/-- What is left of a list of claims when rounds drop out at its front: no claim is doubled, and no port's claim is lost. -/
theorem users_of_dropped {l m : List LineUser} {n : Nat} (h : l = List.replicate n .round ++ m) :
    (l.Nodup → m.Nodup) ∧ ∀ u, u ≠ .round → (u ∈ m ↔ u ∈ l) := by
  subst h
  refine ⟨fun hn => (List.nodup_append.mp hn).2.1, fun u hu => ?_⟩
  simp [List.mem_replicate, hu]

@[simp] theorem freed_holder (b : Bus) : b.freed.holder = .free := rfl
@[simp] theorem freed_queue (b : Bus) : b.freed.queue = b.queue := rfl
@[simp] theorem freed_status (b : Bus) : b.freed.status = b.status := rfl
@[simp] theorem freed_users (b : Bus) : b.freed.users = b.queue := rfl

/-- The law of the line rests on the claims, the port states and the zero outcomes alone. -/
theorem lineLaw_congr {s t : State} (h : LineLaw s) (hu : t.bus.users = s.bus.users)
    (hf : t.bus.holder = .free → t.bus.queue = []) (hz : ∀ p, (t.bus.status.get p).zero = (s.bus.status.get p).zero)
    (hi : ∀ p, (t.ports.get p).state = .identifying ↔ (s.ports.get p).state = .identifying)
    (ho : ∀ p, (s.ports.get p).state = .online → (t.ports.get p).state = .online) : LineLaw t := by
  constructor
  · rw [hu]; exact h.once
  · exact hf
  · intro p; rw [hu, hi]; exact h.ident p
  · intro p; rw [hu, hz]; exact h.zero p
  · intro p hp; rw [hz] at hp; exact ho p (h.online p hp)

end Sys2Proof.Machine
end

