-- ==== Sys2Proof/Laws/Link.lean ====
section
/-! SUPPORT. The receivers of SBUS and WRX: where a character begins among the samples (R25), and what a character, a false
start and the end of a message leave of a receiver (R26, R124). -/

namespace Sys2Proof.Machine

/-! ## The hunt for a start bit -/

@[simp] theorem findStart_nil (high : Bool) : findStart high [] = [] := by cases high <;> rfl

theorem findStart_low (low l : List Bool) (h : ∀ x ∈ low, x = false) : findStart false (low ++ l) = findStart false l := by
  induction low with
  | nil => rfl
  | cons x xs ih =>
    obtain rfl : x = false := h x (by simp)
    exact ih fun y hy => h y (by simp [hy])

theorem findStart_high (b : Bool) (high l : List Bool) (h : ∀ x ∈ high, x = true) (hne : high ≠ []) :
    findStart b (high ++ false :: l) = false :: l := by
  induction high generalizing b with
  | nil => exact absurd rfl hne
  | cons x xs ih =>
    obtain rfl : x = true := h x (by simp)
    cases xs with
    | nil => simp [findStart]
    | cons y ys => simpa [findStart] using ih true (fun z hz => h z (by simp [hz])) (by simp)

/-- The hunt finds nothing, or a low sample behind a high one. -/
theorem findStart_head (b : Bool) (l : List Bool) : findStart b l = [] ∨ (findStart b l).head? = some false := by
  induction l generalizing b with
  | nil => simp
  | cons x l ih =>
    cases b <;> cases x <;> simp [findStart, ih]

theorem huntFrom_start (n : Nat) (b : Bool) (l : List Bool) (h : bitAt (findStart b l) 0 = false) :
    huntFrom (n + 1) b l = findStart b l := by simp [huntFrom, h]

/-! ## What a receiver keeps -/

@[simp] theorem Receiver.heard_holding (l : List Bool) (r : Receiver) : (r.heard l).holding = r.holding := by
  simp only [Receiver.heard]; split <;> (try split) <;> rfl
@[simp] theorem Receiver.heard_taken (l : List Bool) (r : Receiver) : (r.heard l).taken = r.taken := by
  simp only [Receiver.heard]; split <;> (try split) <;> rfl
@[simp] theorem Receiver.heard_overrun (l : List Bool) (r : Receiver) : (r.heard l).overrun = r.overrun := by
  simp only [Receiver.heard]; split <;> (try split) <;> rfl
@[simp] theorem Receiver.completedAt_holding (l : List Bool) (c : RxChar) (r : Receiver) :
    (r.completedAt l c).holding = r.holding := rfl
@[simp] theorem Receiver.completedAt_taken (l : List Bool) (c : RxChar) (r : Receiver) :
    (r.completedAt l c).taken = r.taken := rfl
@[simp] theorem Receiver.completedAt_overrun (l : List Bool) (c : RxChar) (r : Receiver) :
    (r.completedAt l c).overrun = r.overrun := rfl
@[simp] theorem Receiver.completedAt_mode (l : List Bool) (c : RxChar) (r : Receiver) :
    (r.completedAt l c).mode = modeAfter c := rfl
@[simp] theorem Receiver.complete_mode (keep : Bool) (c : RxChar) (h : Bool) (r : Receiver) :
    (r.complete keep c h).mode = r.mode := by simp only [Receiver.complete]; split <;> (try split) <;> rfl
@[simp] theorem Receiver.complete_lastHigh (keep : Bool) (c : RxChar) (h : Bool) (r : Receiver) :
    (r.complete keep c h).lastHigh = r.lastHigh := by simp only [Receiver.complete]; split <;> (try split) <;> rfl

/-! ## Messages (R124, R189) -/

theorem sumOf_append (l k : List Byte) : sumOf (l ++ k) = sumOf l + sumOf k := by
  have h : ∀ (k : List Byte) (a : Byte), k.foldl (· + ·) a = a + k.foldl (· + ·) 0 := by
    intro k
    induction k with
    | nil => simp
    | cons x k ih => intro a; rw [List.foldl_cons, List.foldl_cons, ih, ih (0 + x)]; simp [BitVec.add_assoc]
  simp only [sumOf, List.foldl_append]
  exact h ..

/-- A message built with its sum totals 0. -/
@[simp] theorem sumOf_winchMessage (l : List Byte) : sumOf (winchMessage l) = 0 := by
  rw [winchMessage, sumOf_append]
  have h : sumOf [0 - sumOf l] = 0 - sumOf l := by simp [sumOf]
  rw [h, BitVec.add_comm, BitVec.sub_add_cancel]

theorem halves_of_bytes (h : Half) : h.extractLsb' 8 8 ++ h.extractLsb' 0 8 = h := by
  apply BitVec.eq_of_getLsbD_eq
  intro i hi
  simp only [BitVec.getLsbD_append, BitVec.getLsbD_extractLsb']
  by_cases h8 : i < 8
  · simp [h8]
  · simp [h8, show i - 8 < 8 by omega, show 8 + (i - 8) = i by omega]

theorem triple_of_bytes (d : BitVec 24) : d.extractLsb' 16 8 ++ d.extractLsb' 8 8 ++ d.extractLsb' 0 8 = d := by
  apply BitVec.eq_of_getLsbD_eq
  intro i hi
  simp only [BitVec.getLsbD_append, BitVec.getLsbD_extractLsb']
  by_cases h8 : i < 8
  · simp [h8]
  · by_cases h16 : i - 8 < 8
    · simp [h8, h16, show 8 + (i - 8) = i by omega]
    · simp [h8, h16, show i - 8 - 8 < 8 by omega, show 16 + (i - 8 - 8) = i by omega]

/-- A report is read back from the characters that say it. -/
@[simp] theorem reportOf_chars (r : WinchReport) : reportOf r.chars = some r := by
  cases r with
  | position d h =>
    have e := triple_of_bytes d
    have e2 := halves_of_bytes h
    simp [reportOf, WinchReport.chars, winchMessage, halfBytes, e, e2]
  | arrived => rfl
  | fault c => rfl

/-- The only check that the message of a report can fail is RANGE. -/
theorem linkErrorOf_report (r : WinchReport) :
    linkErrorOf r.message = if r.outOfRange then some .range else none := by
  have hs : sumOf r.chars = 0 := by cases r <;> exact sumOf_winchMessage _
  have ht : (r.chars.head?.all fun b => (winchLength b).isNone) = false := by cases r <;> rfl
  simp [linkErrorOf, WinchReport.message, hs, ht]

/-- The message of a report is acted on, or discarded when it is out of range. -/
theorem messageComes_report (r : WinchReport) (s : State) :
    messageComes r.message s = if r.outOfRange then discardMessage .range s else reportComes r s := by
  rw [messageComes, linkErrorOf_report]
  cases h : r.outOfRange <;> simp [WinchReport.message]

/-! ## The assembler (R124) -/

@[simp] theorem withWrx_rx (r : Receiver) (s : State) : (withWrx r s).carriage.rx = r := rfl
@[simp] theorem withWrx_withWrx (r k : Receiver) (s : State) : withWrx r (withWrx k s) = withWrx r s := rfl
@[simp] theorem withWrx_self (s : State) : withWrx s.carriage.rx s = s := rfl

theorem messageLength_append {l : List RxChar} (k : List RxChar) (h : l ≠ []) :
    messageLength (l ++ k) = messageLength l := by
  cases l with
  | nil => exact absurd rfl h
  | cons c l => rfl

theorem Receiver.messageWhole_iff (r : Receiver) :
    r.messageWhole = true ↔ r.taken ≠ [] ∧ messageLength r.taken ≤ r.taken.length := by
  simp [Receiver.messageWhole]

theorem takeChar_whole {s : State} {c : RxChar} (h : (s.carriage.rx.took c).messageWhole = true) :
    takeChar s c = messageComes ((s.carriage.rx.took c).message false) (withWrx (s.carriage.rx.took c).messageEnded s) :=
  if_pos h

theorem takeChar_short {s : State} {c : RxChar} (h : (s.carriage.rx.took c).messageWhole = false) :
    takeChar s c = withWrx (s.carriage.rx.took c) s := if_neg (by simp [h])

/-- The receiver when the assembler has taken some characters more. -/
def Receiver.tookAll (l : List RxChar) (r : Receiver) : Receiver := { r with taken := r.taken ++ l }

/-- Characters that leave the message short of its length stay under assembly. -/
theorem takeChars_partial (l : List RxChar) (s : State)
    (h : s.carriage.rx.taken ++ l = [] ∨
      (s.carriage.rx.taken ++ l).length < messageLength (s.carriage.rx.taken ++ l)) :
    l.foldl takeChar s = withWrx (s.carriage.rx.tookAll l) s := by
  induction l generalizing s with
  | nil => simp only [List.foldl_nil, Receiver.tookAll, List.append_nil]; rfl
  | cons c l ih =>
    have hc : (s.carriage.rx.taken ++ c :: l).length < messageLength (s.carriage.rx.taken ++ c :: l) := by
      rcases h with h | h
      · simp at h
      · exact h
    have e : s.carriage.rx.taken ++ c :: l = (s.carriage.rx.taken ++ [c]) ++ l := by simp
    have hs : (s.carriage.rx.took c).messageWhole = false := by
      rw [← Bool.not_eq_true, Receiver.messageWhole_iff]
      rw [e, messageLength_append l (by simp), List.length_append] at hc
      simp only [Receiver.took, not_and]
      intro _
      omega
    rw [List.foldl_cons, takeChar_short hs, ih]
    · simp [Receiver.tookAll, Receiver.took]
    · refine .inr ?_
      simpa [Receiver.took] using hc

/-- The character that brings the message to its length ends it. -/
theorem takeChars_whole (l : List RxChar) (s : State) (hl : l ≠ [])
    (h : (s.carriage.rx.taken ++ l).length = messageLength (s.carriage.rx.taken ++ l)) :
    l.foldl takeChar s =
      messageComes ((s.carriage.rx.tookAll l).message false) (withWrx s.carriage.rx.messageEnded s) := by
  obtain ⟨l, c, rfl⟩ : ∃ k c, l = k ++ [c] := ⟨l.dropLast, l.getLast hl, (List.dropLast_append_getLast hl).symm⟩
  rw [← List.append_assoc] at h
  rw [List.foldl_append, takeChars_partial l s, List.foldl_cons, List.foldl_nil, takeChar_whole]
  · simp [Receiver.messageEnded, Receiver.tookAll, Receiver.took]
  · rw [Receiver.messageWhole_iff]
    simp only [withWrx_rx, Receiver.tookAll, Receiver.took]
    exact ⟨by simp, by omega⟩
  · by_cases e : s.carriage.rx.taken ++ l = []
    · exact .inl e
    · right
      rw [messageLength_append [c] e] at h
      rw [← h]
      simp

theorem WinchReport.chars_length (r : WinchReport) (l : List RxChar) (h : l.map (·.data) = r.chars) :
    l.length = messageLength l := by
  have e : l.length = r.chars.length := by rw [← h, List.length_map]
  have e2 : messageLength l = (r.chars.head?.bind winchLength).getD 1 := by
    rw [messageLength, ← List.head?_map, h]
  rw [e, e2]
  cases r <;> rfl

/-- A report's message command, on an assembler that has nothing or a faultless beginning of it: its message ends and is
acted on, and the assembler is empty. -/
theorem winchSends_report (r : WinchReport) (s : State) (h : s.carriage.rx.clean r.chars) :
    winchSends r.message s = messageComes r.message
      (withWrx { s.carriage.rx with holding := none, taken := [], overrun := false } s) := by
  obtain ⟨ho, hf, ⟨rest, hr⟩, hlt⟩ := h
  have hb : s.carriage.rx.begins r.chars = true := by
    simp only [Receiver.begins, List.isPrefixOf_iff_prefix]
    exact ⟨rest, hr⟩
  have hlacks : s.carriage.rx.lacks r.chars = rest := by
    rw [Receiver.lacks, if_pos hb, ← hr]
    simp
  let x : State := withWrx { s.carriage.rx with holding := none } s
  let l : List RxChar := s.carriage.rx.holding.toList ++ rest.map fun b => ⟨b, false, false⟩
  have hsend : winchSends r.message s = l.foldl takeChar x := by
    simp only [winchSends, WinchReport.message, hb, if_true, hlacks, Bool.false_eq_true, if_false]
    have hn : noteLoss false s = s := by
      simp only [noteLoss, ho, Bool.or_self]
      rw [← ho]; rfl
    rw [hn, List.foldl_append]
    congr 1
    simp only [takeHeld, x]
    split
    · next e =>
      have hx : ({ s.carriage.rx with holding := none } : Receiver) = s.carriage.rx := by rw [← e]
      rw [hx, e]
      rfl
    · next c e => simp [e]
  have hdata : (x.carriage.rx.taken ++ l).map (·.data) = r.chars := by
    rw [← hr, Receiver.assembled]
    simp [x, l, Function.comp_def]
  have hframes : (x.carriage.rx.taken ++ l).any (·.framing) = false := by
    simp only [List.any_eq_false, List.mem_append, l, x, withWrx_rx, List.mem_map]
    rintro c (hc | hc | ⟨b, -, rfl⟩)
    · simp [hf c (by simp [Receiver.assembled, hc])]
    · simp [hf c (by simp [Receiver.assembled, hc])]
    · simp
  have hne : l ≠ [] := by
    intro e
    have := congrArg List.length hdata
    simp only [e, List.append_nil, List.length_map, x, withWrx_rx] at this
    omega
  rw [hsend, takeChars_whole l x hne (WinchReport.chars_length r _ hdata)]
  have hm : (x.carriage.rx.tookAll l).message false = r.message := by
    simp only [Receiver.message, Receiver.tookAll, hdata, hframes, WinchReport.message]
    simp [x, ho]
  rw [hm]
  simp [Receiver.messageEnded, x]

end Sys2Proof.Machine
end

