-- ==== Sys2Proof/Laws/Members.lean ====
section
/-! SUPPORT. The shared operations only add members to the attention summary (R182): what each adds is a list of members, so
none that is set is lost and the two unused bits stay as they were. -/

namespace Sys2Proof.Machine

/-- The attention summary of the second state is that of the first with some members added. -/
def Marked (s t : State) : Prop := ∃ ms : List Member, t.host.attention = ms.foldl withMember s.host.attention

theorem Marked.of_eq {s t : State} (h : t.host.attention = s.host.attention) : Marked s t := ⟨[], h⟩

theorem Marked.refl (s : State) : Marked s s := ⟨[], rfl⟩

theorem Marked.trans {s t u : State} (h1 : Marked s t) (h2 : Marked t u) : Marked s u := by
  obtain ⟨l1, e1⟩ := h1
  obtain ⟨l2, e2⟩ := h2
  exact ⟨l1 ++ l2, by rw [e2, e1, List.foldl_append]⟩

theorem Marked.foldl {α : Type} (f : State → α → State) (h : ∀ s a, Marked s (f s a)) (l : List α) (s : State) :
    Marked s (l.foldl f s) := by
  induction l generalizing s with
  | nil => exact .refl s
  | cons a l ih => exact (h s a).trans (ih _)

/-- A member that is set stays set. -/
theorem Marked.keeps {s t : State} (h : Marked s t) {m : Member} (hm : hasMember s.host.attention m = true) :
    hasMember t.host.attention m = true := by
  obtain ⟨l, e⟩ := h
  rw [e]
  clear e
  generalize s.host.attention = a at hm
  induction l generalizing a with
  | nil => exact hm
  | cons x l ih => exact ih _ (hasMember_withMember_of _ hm)

/-- The bits that stand for no member stay as they were. -/
theorem Marked.high {s t : State} (h : Marked s t) {i : Nat} (hi : 38 ≤ i) :
    t.host.attention.getLsbD i = s.host.attention.getLsbD i := by
  obtain ⟨l, e⟩ := h
  rw [e]
  clear e
  generalize s.host.attention = a
  induction l generalizing a with
  | nil => rfl
  | cons x l ih => rw [List.foldl_cons, ih, withMember_high _ _ hi]

theorem addMember_marked (m : Member) (s : State) : Marked s (addMember m s) := ⟨[m], rfl⟩

theorem addMemberIf_marked (c : Bool) (m : Member) (s : State) : Marked s (addMemberIf c m s) := by
  cases c
  · exact .refl s
  · exact addMember_marked m s

theorem withBus_marked (f : Bus → Bus) (s : State) : Marked s (withBus f s) := .of_eq rfl

theorem putStatus_marked (p : Fin 4) (f : ReplyStatus → ReplyStatus) (s : State) : Marked s (putStatus p f s) := .of_eq rfl

theorem storePort_marked (p : Fin 4) (r : Port) (s : State) : Marked s (storePort p r s) := addMemberIf_marked ..

theorem putSlot_marked (k : Fin 3) (r : RatingSlot) (s : State) : Marked s (putSlot k r s) := .of_eq rfl

theorem putGauging_marked (n : Fin 4) (g : Gauging) (s : State) : Marked s (putGauging n g s) :=
  (Marked.of_eq rfl).trans (addMemberIf_marked ..)

theorem putCarriage_marked (c : Carriage) (s : State) : Marked s (putCarriage c s) :=
  (Marked.of_eq rfl).trans (addMemberIf_marked ..)

theorem markWatches_marked (test : Fin 24 → Bool) (s : State) : Marked s (markWatches test s) :=
  Marked.foldl _ (fun _ _ => addMemberIf_marked ..) _ s

theorem putEachGauging_marked (f : Gauging → Gauging) (s : State) : Marked s (putEachGauging f s) :=
  Marked.foldl _ (fun s n => by
    cases h : s.gaugings.get n
    · exact .refl s
    · exact putGauging_marked ..) _ s

theorem takeStopped_marked (c : StopCause) (s : State) : Marked s (takeStopped c s) := putEachGauging_marked ..

theorem gaugingWithdraw_marked (s : State) : Marked s (gaugingWithdraw s) := putEachGauging_marked ..

theorem gaugingTakeFlow_marked (x : StageSample) (s : State) : Marked s (gaugingTakeFlow x s) := putEachGauging_marked ..

theorem takeParked_marked (s : State) : Marked s (takeParked s) :=
  Marked.foldl _ (fun s n => by
    cases h : s.gaugings.get n with
    | none => exact .refl s
    | some g =>
      dsimp only
      split
      · exact (putGauging_marked ..).trans (addMember_marked ..)
      · exact .refl s) _ s

theorem askVisit_marked (d : Nat) (s : State) : Marked s (askVisit d s) := by
  simp only [askVisit]
  split
  · exact putCarriage_marked ..
  · exact .refl s

theorem askSet_marked (d o : Nat) (s : State) : Marked s (askSet d o s) := by
  simp only [askSet]
  split
  · exact putCarriage_marked ..
  · exact .refl s

theorem askMoveOn_marked (d : Nat) (s : State) : Marked s (askMoveOn d s) := by
  simp only [askMoveOn]
  split
  · exact putCarriage_marked ..
  · exact .refl s

theorem askReturn_marked (s : State) : Marked s (askReturn s) := by
  simp only [askReturn]
  split
  · exact putCarriage_marked ..
  · exact .refl s

theorem carriageWithdraw_marked (s : State) : Marked s (carriageWithdraw s) := by
  simp only [carriageWithdraw]
  split
  · exact putCarriage_marked ..
  · exact .refl s

theorem beginVisit_marked (n : Fin 4) (g : Gauging) (s : State) : Marked s (beginVisit n g s) := by
  simp only [beginVisit]
  split
  · exact (putGauging_marked ..).trans (askVisit_marked ..)
  · exact putGauging_marked ..

theorem finishVertical_marked (n : Fin 4) (g : Gauging) (i : Nat) (s : State) : Marked s (finishVertical n g i s) := by
  simp only [finishVertical]
  split
  · exact ((putGauging_marked ..).trans (addMember_marked ..)).trans (askMoveOn_marked ..)
  · exact ((putGauging_marked ..).trans (addMember_marked ..)).trans (askReturn_marked ..)

theorem takeSounded_marked (d : Nat) (s : State) : Marked s (takeSounded d s) := by
  simp only [takeSounded]
  (repeat' split) <;> first
    | exact .refl s
    | exact (putGauging_marked ..).trans (askSet_marked ..)
    | exact finishVertical_marked ..

theorem takePointSet_marked (s : State) : Marked s (takePointSet s) := by
  simp only [takePointSet]
  (repeat' split) <;> first
    | exact .refl s
    | exact (putGauging_marked ..).trans (askReturn_marked ..)
    | exact (putGauging_marked ..).trans (.of_eq rfl)

theorem takePointResult_marked (x : PointResult) (s : State) : Marked s (takePointResult x s) := by
  simp only [takePointResult]
  (repeat' split) <;> first
    | exact .refl s
    | exact (putGauging_marked ..).trans (askSet_marked ..)
    | exact finishVertical_marked ..

theorem stopCarriage_marked (k : StopCause) (c : Carriage) (s : State) : Marked s (stopCarriage k c s) := by
  simp only [stopCarriage]
  split
  · exact (putCarriage_marked ..).trans (takeStopped_marked ..)
  · exact putCarriage_marked ..

theorem putSounding_marked (c : Carriage) (s : State) : Marked s (putSounding c s) := by
  simp only [putSounding]
  split
  · exact (putCarriage_marked ..).trans (takeSounded_marked ..)
  · exact putCarriage_marked ..

theorem answered_marked (c : Carriage) (s : State) : Marked s (answered c s) := by
  simp only [answered]
  (repeat' split) <;> first
    | with_reducible exact putCarriage_marked ..
    | with_reducible exact putSounding_marked ..
    | with_reducible exact stopCarriage_marked ..
    | with_reducible exact (putCarriage_marked ..).trans (takePointSet_marked ..)
    | with_reducible exact (putCarriage_marked ..).trans (takeParked_marked ..)

theorem withWrx_marked (r : Receiver) (s : State) : Marked s (withWrx r s) := .of_eq rfl

theorem discardMessage_marked (e : LinkError) (s : State) : Marked s (discardMessage e s) :=
  (Marked.of_eq rfl).trans (addMember_marked ..)

theorem arrivedComes_marked (s : State) : Marked s (arrivedComes s) := by
  simp only [arrivedComes]
  (repeat' split) <;> first
    | exact discardMessage_marked ..
    | exact answered_marked ..
    | exact .of_eq rfl

theorem reportComes_marked (r : WinchReport) (s : State) : Marked s (reportComes r s) := by
  cases r
  · exact .of_eq rfl
  · exact arrivedComes_marked s
  · exact stopCarriage_marked ..

theorem messageComes_marked (m : WinchMessage) (s : State) : Marked s (messageComes m s) := by
  simp only [messageComes]
  split
  · exact discardMessage_marked ..
  · exact reportComes_marked ..
  · exact .refl s

theorem takeChar_marked (s : State) (c : RxChar) : Marked s (takeChar s c) := by
  simp only [takeChar]
  split
  · exact (withWrx_marked ..).trans (messageComes_marked ..)
  · exact withWrx_marked ..

theorem putWatches_marked (u : WatchUnit) (s : State) : Marked s (putWatches u s) := by
  simp only [putWatches]
  split
  · exact Marked.trans (t := { s with watches := u.settled }) (.of_eq rfl)
      ((carriageWithdraw_marked _).trans (gaugingWithdraw_marked _))
  · exact .of_eq rfl

theorem putWatch_marked (k : Fin 24) (w : Option Watch) (s : State) : Marked s (putWatch k w s) :=
  (addMember_marked ..).trans (putWatches_marked ..)

theorem watchesTake_marked (x : FlowSample) (s : State) : Marked s (watchesTake x s) :=
  (markWatches_marked ..).trans (putWatches_marked ..)

theorem markSample_marked (q : Quality) (x : StageSample) (s : State) : Marked s (markSample q x s) :=
  (addMemberIf_marked ..).trans (addMemberIf_marked ..)

theorem evaluateRatings_marked (t : Nat) (s : State) : Marked s (evaluateRatings t s) :=
  (Marked.of_eq rfl).trans (addMemberIf_marked ..)

theorem publishFlow_marked (x : FlowSample) (s : State) : Marked s (publishFlow x s) :=
  Marked.trans (t := { s with lastFlow := some x }) (.of_eq rfl)
    ((watchesTake_marked x _).trans (gaugingTakeFlow_marked x.sample _))

theorem publishSample_marked (x : StageSample) (s : State) : Marked s (publishSample x s) :=
  (evaluateRatings_marked ..).trans (publishFlow_marked ..)

theorem handRound_marked (l : List ReadingRecord) (s : State) : Marked s (handRound l s) := by
  simp only [handRound]
  split
  · exact Marked.trans (t := { s with selector := closeSelector s.host.time s.ports l s.selector }) (.of_eq rfl)
      ((markSample_marked ..).trans (publishSample_marked ..))
  · exact .of_eq rfl

theorem grantFrom_marked (l : List LineUser) (s : State) : Marked s (grantFrom l s) := by
  induction l generalizing s with
  | nil => exact .of_eq rfl
  | cons u l ih =>
    cases u <;> simp only [grantFrom]
    · split
      · exact (handRound_marked ..).trans (ih _)
      · exact .of_eq rfl
    · exact .of_eq rfl
    · exact .of_eq rfl

theorem freeLine_marked (s : State) : Marked s (freeLine s) := .of_eq rfl

theorem serveLine_marked (s : State) : Marked s (serveLine s) := by
  simp only [serveLine]
  split
  · exact grantFrom_marked ..
  · exact .refl s

theorem placeUser_marked (u : LineUser) (s : State) : Marked s (placeUser u s) := by
  simp only [placeUser]
  split
  · exact grantFrom_marked ..
  · exact .of_eq rfl

theorem closeRound_marked (s : State) : Marked s (closeRound s) :=
  ((freeLine_marked s).trans (handRound_marked ..)).trans (serveLine_marked _)

theorem advanceRound_marked (l : List (Fin 4)) (s : State) : Marked s (advanceRound l s) := by
  simp only [advanceRound]
  split
  · exact closeRound_marked s
  · exact .of_eq rfl

theorem endUser_marked (s : State) : Marked s (endUser s) := (freeLine_marked s).trans (serveLine_marked _)

theorem zeroEnds_marked (p : Fin 4) (o : ZeroOutcome) (s : State) : Marked s (zeroEnds p o s) :=
  (Marked.of_eq rfl).trans (addMember_marked ..)

theorem sequencerTake_marked (s : State) : Marked s (sequencerTake s) := by
  simp only [sequencerTake]
  (repeat' split) <;> first
    | exact .refl s
    | exact (Marked.of_eq rfl).trans (storePort_marked ..)

theorem leaveQueue_marked (p : Fin 4) (o n : PortState) (s : State) : Marked s (leaveQueue p o n s) := by
  simp only [leaveQueue]
  split <;> exact .of_eq rfl

theorem dropUser_marked (u : LineUser) (s : State) : Marked s (dropUser u s) := by
  simp only [dropUser]
  split
  · exact endUser_marked s
  · exact .of_eq rfl

theorem leaveIdent_marked (p : Fin 4) (o n : PortState) (s : State) : Marked s (leaveIdent p o n s) := by
  simp only [leaveIdent]
  split
  · exact dropUser_marked ..
  · exact .refl s

theorem leaveZero_marked (p : Fin 4) (o n : PortState) (s : State) : Marked s (leaveZero p o n s) := by
  simp only [leaveZero]
  split
  · exact ((zeroEnds_marked ..).trans (withBus_marked ..)).trans (dropUser_marked ..)
  · exact .refl s

theorem leavePoll_marked (p : Fin 4) (o n : PortState) (s : State) : Marked s (leavePoll p o n s) := by
  simp only [leavePoll]
  split
  · exact (withBus_marked ..).trans (advanceRound_marked ..)
  · exact .refl s

/-- What follows the write of a moved record adds members to those of the write. -/
theorem movePort_marked_store (p : Fin 4) (r : Port) (s : State) : Marked (storePort p r s) (movePort p r s) :=
  ((((leaveQueue_marked ..).trans (leaveIdent_marked ..)).trans (leaveZero_marked ..)).trans (leavePoll_marked ..)).trans
    (sequencerTake_marked _)

theorem movePort_marked (p : Fin 4) (r : Port) (s : State) : Marked s (movePort p r s) :=
  (storePort_marked ..).trans (movePort_marked_store ..)

/-- A move that changes the port's state sets its member. -/
theorem movePort_member {p : Fin 4} {r : Port} {s : State} (h : (s.ports.get p).state ≠ r.state) :
    hasMember (movePort p r s).host.attention (.port p) = true :=
  (movePort_marked_store p r s).keeps (storePort_member h)

theorem offerPower_marked (p : Fin 4) (r : Port) (s : State) : Marked s (offerPower p r s) := by
  simp only [offerPower]
  split
  · exact (storePort_marked ..).trans ((Marked.of_eq rfl).trans (sequencerTake_marked _))
  · exact storePort_marked ..

theorem beginIdentify_marked (p : Fin 4) (s : State) : Marked s (beginIdentify p s) :=
  ((putStatus_marked ..).trans (movePort_marked ..)).trans (placeUser_marked ..)

/-! ## A port's move and the line -/

/-- A move's record is written as settled, the port is in no power queue after it, and no other port changes but one that the
sequencer takes from WAITING. -/
theorem movePort_spec {p : Fin 4} {r : Port} {s : State} (h : PowerLaw s) (hw : r.state ≠ .waiting) :
    (movePort p r s).ports.get p = (s.ports.get p).settled r ∧ p ∉ (movePort p r s).powerQueue ∧
      ∀ q, q ≠ p → (movePort p r s).ports.get q = s.ports.get q ∨
        ((s.ports.get q).state = .waiting ∧ ((movePort p r s).ports.get q).state = .powering) := by
  obtain ⟨t, he, hports, hq⟩ := movePort_eq p r s
  have hq' : t.powerQueue = s.powerQueue.erase p := by
    rw [hq]
    split
    · rfl
    · next hn =>
      exact (List.erase_of_not_mem fun hm => hn ⟨(h.waiting p).mp hm, hw⟩).symm
  have hnot : p ∉ t.powerQueue := by rw [hq', h.once.mem_erase_iff]; exact fun e => e.1 rfl
  rw [he]
  refine ⟨by rw [sequencerTake_port_of_not_mem hnot, hports, putAt_get_self],
    fun hm => hnot (sequencerTake_queue_subset t hm), fun q hqp => ?_⟩
  rcases sequencerTake_port t q with e | ⟨hh, e⟩
  · left; rw [e, hports, putAt_get_ne _ _ hqp]
  · right
    refine ⟨(h.waiting q).mp ?_, e⟩
    have := List.mem_of_mem_head? hh
    rw [hq'] at this
    exact List.mem_of_mem_erase this

/-- On a free line a port's move touches neither the line nor anything that a round's close would. -/
theorem movePort_free {p : Fin 4} {r : Port} {s : State} (hl : LineLaw s) (hf : s.bus.holder = .free) :
    movePort p r s = sequencerTake (leaveQueue p (s.ports.get p).state r.state (storePort p r s)) := by
  have hu : s.bus.users = [] := by simp [Bus.users, hf, hl.free hf]
  have hni : (s.ports.get p).state ≠ .identifying := fun e => by simpa [hu] using (hl.ident p).mpr e
  have hnz : s.bus.hasZero p = false := by simp [Bus.hasZero, hf, hl.free hf]
  have hnp : s.bus.polling p = false := by simp [Bus.polling, hf]
  simp only [movePort, leaveIdent, hni, false_and, if_false, leaveZero, leaveQueue_bus, storePort_bus, hnz,
    Bool.false_eq_true, and_false, leavePoll, hnp]

end Sys2Proof.Machine
end

