-- ==== Sys2Proof/WellFormed.lean ====
section
/-! DEFINITION. Which commands can reach the block: the well-formedness of a command's operands, by R176, R177, R186, R187
and the lengths of characters and messages (R25, R123, R189). -/

namespace Sys2Proof

/-- R187: the verb codes of the table. -/
def verbCodes : List Nat :=
  [0x01, 0x02, 0x03, 0x04, 0x10, 0x11, 0x12, 0x13, 0x14, 0x15, 0x16, 0x20, 0x21, 0x22, 0x23,
   0x30, 0x31, 0x32, 0x33, 0x34, 0x35, 0x36, 0x37, 0x40, 0x41, 0x42, 0x43, 0x44, 0x45,
   0x50, 0x51, 0x52, 0x53, 0x54, 0x60, 0x61, 0x62, 0x63, 0x64, 0x65, 0x66, 0x67]

/-- R176: a command frame has a length from 1, and a verb is known only when its byte came. -/
def FrameLen.carriesVerb (f : FrameLen) : Bool := decide (1 ≤ f.declared.toNat) && decide (1 ≤ f.received)

/-- R177: an UNKNOWN_VERB frame: its verb byte is in no row of R187, or no byte came at all. -/
def unknownFrameOk (f : FrameLen) (verb : Option Byte) : Bool :=
  decide (1 ≤ f.declared.toNat) &&
    match verb with
    | some b => decide (1 ≤ f.received) && !verbCodes.contains b.toNat
    | none => decide (f.received = 0)

/-- R25, R123: how many samples a character has, from sample 0 to sample 9 of its stop bit. -/
def charSamples : SerialLine → Nat
  | .sbus => 170
  | .wrx => 154

/-- R25, R123: the samples since the receiver's latest event end with those of a character, the first of which is low. -/
def samplesOk (line : SerialLine) (samples : List Bool) : Bool :=
  decide (charSamples line ≤ samples.length) && samples[samples.length - charSamples line]? == some false

/-- R124, R189: a message that has ended has from 1 to 7 characters. -/
def WinchMessage.sized (m : WinchMessage) : Bool := decide (1 ≤ m.chars.length) && decide (m.chars.length ≤ 7)

/-- Whether a command's operands can occur. -/
def Instr.wellFormed : Instr → Bool
  | .setTime f _ | .readTime f | .reset f | .readAttention f => f.carriesVerb
  | .portConfig f _ _ _ _ _ _ _ | .portEnable f _ | .portDisable f _ | .portRead f _ => f.carriesVerb
  | .headZero f _ | .busConfig f _ _ | .busRestart f => f.carriesVerb
  | .stagePolicy f _ _ _ _ _ | .stageRead f | .observerEntry f _ _ | .reselect f => f.carriesVerb
  | .ratingPoints f _ points => f.carriesVerb && decide (points.length ≤ 255)
  | .ratingBegin f _ _ _ | .ratingFinish f _ | .ratingRead f _ _ | .ratingRetire f _ => f.carriesVerb
  | .shiftPut f _ _ _ | .shiftRemove f _ _ | .shiftRead f _ | .flowRead f => f.carriesVerb
  | .watchPut f _ _ _ _ _ _ _ _ _ _ _ => f.carriesVerb
  | .watchRead f _ | .watchAck f _ | .watchRemove f _ | .lineConfig f _ => f.carriesVerb
  | .cablewayConfig f _ | .cablewayHome f | .cablewayHalt f | .cablewayRead f => f.carriesVerb
  | .meterConfig f _ _ _ _ _ _ _ => f.carriesVerb
  | .gaugingVerticals f _ verticals => f.carriesVerb && decide (verticals.length ≤ 255)
  | .gaugingPlan f _ _ _ _ _ | .gaugingStart f _ | .gaugingResume f _ | .gaugingAbort f _ => f.carriesVerb
  | .gaugingRead f _ _ | .gaugingAdopt f _ _ | .gaugingRetire f _ => f.carriesVerb
  | .unknownVerb f verb => unknownFrameOk f verb
  | .characterCompletion line samples _ => samplesOk line samples
  | .winchLinkError m => m.sized
  | .readTransaction _ | .powerOnReset | .resetRelease | .transactionBegin _ => true
  | .presenceArrival _ | .presenceLoss _ | .latchClosing _ | .latchOpening _ | .buttonPress _ => true
  | .statusAssertion _ | .statusRelease _ | .powerGood _ | .pgTimeout _ | .fixedDelayEnd _ => true
  | .holdOffExpiry _ | .lampBlink _ | .powerSequencerTake => true
  | .stageCycleExpiry | .lineGrant | .pendingDivisorApply | .masterFrameBegin | .masterFrameEnd => true
  | .replyWindowClose | .replyIdleEnd | .replyLimit | .lineIdleRelease | .stray | .breakEnd | .recoveryEnd => true
  | .holdAssertion | .holdRelease | .surfaceContactAssertion | .bedContactAssertion | .contactRelease _ => true
  | .position _ _ | .arrived | .winchFault _ | .commandSent | .moveTimerExpiry | .linkQuietDrain => true
  | .countEvent | .meterInputFall | .exposureExpiry | .stationTimeRise | .startBitAccepted => true

end Sys2Proof
end

