-- ==== Sys2Proof/Laws/PerInstr.lean ====
section
/-! SUPPORT. The statements made command by command: a well-formed command that is a host frame has a length byte of at
least 1 (R176: an empty frame is no command). -/

namespace Sys2Proof.Laws.WellFormedFrame

/-- A well-formed command that has a frame has a frame of at least one byte. -/
def Statement (i : Instr) : Prop := i.wellFormed = true → ∀ f, i.frameLen = some f → 1 ≤ f.declared.toNat

theorem of_carries {i : Instr} {f : FrameLen} (hf : i.frameLen = some f) (hw : i.wellFormed = true → f.carriesVerb = true) :
    Statement i := by
  intro h g hg
  obtain rfl : f = g := Option.some.inj (hf.symm.trans hg)
  have := hw h
  simp only [FrameLen.carriesVerb, Bool.and_eq_true, decide_eq_true_eq] at this
  exact this.1

theorem of_none {i : Instr} (hf : i.frameLen = none) : Statement i := fun _ _ hg => by rw [hf] at hg; cases hg

theorem setTime (f : FrameLen) (time : Word) : Statement (.setTime f time) := of_carries rfl id

theorem readTime (f : FrameLen) : Statement (.readTime f) := of_carries rfl id

theorem reset (f : FrameLen) : Statement (.reset f) := of_carries rfl id

theorem readAttention (f : FrameLen) : Statement (.readAttention f) := of_carries rfl id

theorem portConfig (f : FrameLen) (port kind address : Byte) (datum : Word) (cls mode missLimit : Byte) :
    Statement (.portConfig f port kind address datum cls mode missLimit) :=
  of_carries rfl id

theorem portEnable (f : FrameLen) (port : Byte) : Statement (.portEnable f port) := of_carries rfl id

theorem portDisable (f : FrameLen) (port : Byte) : Statement (.portDisable f port) := of_carries rfl id

theorem portRead (f : FrameLen) (port : Byte) : Statement (.portRead f port) := of_carries rfl id

theorem headZero (f : FrameLen) (port : Byte) : Statement (.headZero f port) := of_carries rfl id

theorem busConfig (f : FrameLen) (divisor period : Half) : Statement (.busConfig f divisor period) :=
  of_carries rfl id

theorem busRestart (f : FrameLen) : Statement (.busRestart f) := of_carries rfl id

theorem stagePolicy (f : FrameLen) (observerClass returnDelay : Byte) (disagreement : Half) (holdLimit filterShift : Byte) :
    Statement (.stagePolicy f observerClass returnDelay disagreement holdLimit filterShift) :=
  of_carries rfl id

theorem stageRead (f : FrameLen) : Statement (.stageRead f) := of_carries rfl id

theorem observerEntry (f : FrameLen) (stage : Half) (entryTime : Word) : Statement (.observerEntry f stage entryTime) :=
  of_carries rfl id

theorem reselect (f : FrameLen) : Statement (.reselect f) := of_carries rfl id

theorem ratingBegin (f : FrameLen) (slot : Byte) (effective : Word) (allowance : Half) :
    Statement (.ratingBegin f slot effective allowance) :=
  of_carries rfl id

theorem ratingPoints (f : FrameLen) (slot : Byte) (points : List PointField) : Statement (.ratingPoints f slot points) :=
  of_carries rfl fun h => (Bool.and_eq_true _ _ ▸ h).1

theorem ratingFinish (f : FrameLen) (slot : Byte) : Statement (.ratingFinish f slot) := of_carries rfl id

theorem ratingRead (f : FrameLen) (slot firstPoint : Byte) : Statement (.ratingRead f slot firstPoint) :=
  of_carries rfl id

theorem ratingRetire (f : FrameLen) (slot : Byte) : Statement (.ratingRetire f slot) := of_carries rfl id

theorem shiftPut (f : FrameLen) (slot : Byte) (time : Word) (shift : Half) : Statement (.shiftPut f slot time shift) :=
  of_carries rfl id

theorem shiftRemove (f : FrameLen) (slot : Byte) (time : Word) : Statement (.shiftRemove f slot time) :=
  of_carries rfl id

theorem shiftRead (f : FrameLen) (slot : Byte) : Statement (.shiftRead f slot) := of_carries rfl id

theorem flowRead (f : FrameLen) : Statement (.flowRead f) := of_carries rfl id

theorem watchPut (f : FrameLen) (key subject direction : Byte) (threshold release : Word) (raise clear : Byte) (level lines : Byte) (withdraw onLoss : Byte) :
    Statement (.watchPut f key subject direction threshold release raise clear level lines withdraw onLoss) :=
  of_carries rfl id

theorem watchRead (f : FrameLen) (key : Byte) : Statement (.watchRead f key) := of_carries rfl id

theorem watchAck (f : FrameLen) (key : Byte) : Statement (.watchAck f key) := of_carries rfl id

theorem watchRemove (f : FrameLen) (key : Byte) : Statement (.watchRemove f key) := of_carries rfl id

theorem lineConfig (f : FrameLen) (silenceable : Byte) : Statement (.lineConfig f silenceable) := of_carries rfl id

theorem cablewayConfig (f : FrameLen) (moveTimeout : Half) : Statement (.cablewayConfig f moveTimeout) :=
  of_carries rfl id

theorem cablewayHome (f : FrameLen) : Statement (.cablewayHome f) := of_carries rfl id

theorem cablewayHalt (f : FrameLen) : Statement (.cablewayHalt f) := of_carries rfl id

theorem cablewayRead (f : FrameLen) : Statement (.cablewayRead f) := of_carries rfl id

theorem meterConfig (f : FrameLen) (exposure p a1 : Byte) (b1 : Half) (nb : Word) (a2 : Byte) (b2 : Half) :
    Statement (.meterConfig f exposure p a1 b1 nb a2 b2) :=
  of_carries rfl id

theorem gaugingPlan (f : FrameLen) (slot direction method : Byte) (offset unsteady : Half) :
    Statement (.gaugingPlan f slot direction method offset unsteady) :=
  of_carries rfl id

theorem gaugingVerticals (f : FrameLen) (slot : Byte) (verticals : List VerticalField) :
    Statement (.gaugingVerticals f slot verticals) :=
  of_carries rfl fun h => (Bool.and_eq_true _ _ ▸ h).1

theorem gaugingStart (f : FrameLen) (slot : Byte) : Statement (.gaugingStart f slot) := of_carries rfl id

theorem gaugingResume (f : FrameLen) (slot : Byte) : Statement (.gaugingResume f slot) := of_carries rfl id

theorem gaugingAbort (f : FrameLen) (slot : Byte) : Statement (.gaugingAbort f slot) := of_carries rfl id

theorem gaugingRead (f : FrameLen) (slot firstVertical : Byte) : Statement (.gaugingRead f slot firstVertical) :=
  of_carries rfl id

theorem gaugingAdopt (f : FrameLen) (slot : Byte) (shift : Option Half) : Statement (.gaugingAdopt f slot shift) :=
  of_carries rfl id

theorem gaugingRetire (f : FrameLen) (slot : Byte) : Statement (.gaugingRetire f slot) := of_carries rfl id

theorem unknownVerb (f : FrameLen) (verb : Option Byte) : Statement (.unknownVerb f verb) := by
  intro h g hg
  obtain rfl : f = g := Option.some.inj hg
  simp only [Instr.wellFormed, unknownFrameOk, Bool.and_eq_true, decide_eq_true_eq] at h
  exact h.1

theorem readTransaction (clocked : Nat) : Statement (.readTransaction clocked) := of_none rfl

theorem powerOnReset : Statement .powerOnReset := of_none rfl

theorem resetRelease : Statement .resetRelease := of_none rfl

theorem presenceArrival (p : Fin 4) : Statement (.presenceArrival p) := of_none rfl

theorem presenceLoss (p : Fin 4) : Statement (.presenceLoss p) := of_none rfl

theorem latchClosing (p : Fin 4) : Statement (.latchClosing p) := of_none rfl

theorem latchOpening (p : Fin 4) : Statement (.latchOpening p) := of_none rfl

theorem buttonPress (p : Fin 4) : Statement (.buttonPress p) := of_none rfl

theorem statusAssertion (p : Fin 4) : Statement (.statusAssertion p) := of_none rfl

theorem statusRelease (p : Fin 4) : Statement (.statusRelease p) := of_none rfl

theorem powerGood (p : Fin 4) : Statement (.powerGood p) := of_none rfl

theorem pgTimeout (p : Fin 4) : Statement (.pgTimeout p) := of_none rfl

theorem fixedDelayEnd (p : Fin 4) : Statement (.fixedDelayEnd p) := of_none rfl

theorem holdOffExpiry (p : Fin 4) : Statement (.holdOffExpiry p) := of_none rfl

theorem lampBlink (p : Fin 4) : Statement (.lampBlink p) := of_none rfl

theorem powerSequencerTake : Statement .powerSequencerTake := of_none rfl

theorem stageCycleExpiry : Statement .stageCycleExpiry := of_none rfl

theorem lineGrant : Statement .lineGrant := of_none rfl

theorem pendingDivisorApply : Statement .pendingDivisorApply := of_none rfl

theorem masterFrameBegin : Statement .masterFrameBegin := of_none rfl

theorem masterFrameEnd : Statement .masterFrameEnd := of_none rfl

theorem replyWindowClose : Statement .replyWindowClose := of_none rfl

theorem replyIdleEnd : Statement .replyIdleEnd := of_none rfl

theorem replyLimit : Statement .replyLimit := of_none rfl

theorem lineIdleRelease : Statement .lineIdleRelease := of_none rfl

theorem stray : Statement .stray := of_none rfl

theorem breakEnd : Statement .breakEnd := of_none rfl

theorem recoveryEnd : Statement .recoveryEnd := of_none rfl

theorem holdAssertion : Statement .holdAssertion := of_none rfl

theorem holdRelease : Statement .holdRelease := of_none rfl

theorem surfaceContactAssertion : Statement .surfaceContactAssertion := of_none rfl

theorem bedContactAssertion : Statement .bedContactAssertion := of_none rfl

theorem contactRelease (c : Contact) : Statement (.contactRelease c) := of_none rfl

theorem position (distance : BitVec 24) (hoist : Half) : Statement (.position distance hoist) := of_none rfl

theorem arrived : Statement .arrived := of_none rfl

theorem winchFault (cause : Byte) : Statement (.winchFault cause) := of_none rfl

theorem winchLinkError (m : WinchMessage) : Statement (.winchLinkError m) := of_none rfl

theorem commandSent : Statement .commandSent := of_none rfl

theorem moveTimerExpiry : Statement .moveTimerExpiry := of_none rfl

theorem linkQuietDrain : Statement .linkQuietDrain := of_none rfl

theorem countEvent : Statement .countEvent := of_none rfl

theorem meterInputFall : Statement .meterInputFall := of_none rfl

theorem exposureExpiry : Statement .exposureExpiry := of_none rfl

theorem stationTimeRise : Statement .stationTimeRise := of_none rfl

theorem startBitAccepted : Statement .startBitAccepted := of_none rfl

theorem characterCompletion (line : SerialLine) (samples : List Bool) (heldTaken : Bool) :
    Statement (.characterCompletion line samples heldTaken) :=
  of_none rfl

theorem transactionBegin (first : Option FirstByte) : Statement (.transactionBegin first) := of_none rfl

end Sys2Proof.Laws.WellFormedFrame
end

