-- ==== Sys2Proof/Tests/Slice0.lean ====
section
/-! SUPPORT. Tests: ill-formed commands that WellFormed refuses, frames written out from R186 and R187, the manual's worked
cases, and for each statement with hypotheses a state and operands that meet them, clause by clause. -/

namespace Sys2Proof.Tests

open Sys2Proof.Machine

/-- Whether a command gives a next state with a property. -/
def gives (c : Instr) (s : State) (P : State → Bool) : Bool :=
  match exec c s with
  | .next t => P t
  | .fault _ | .refused _ => false

/-- The state a command gives. -/
def after (c : Instr) (s : State) : State :=
  match exec c s with
  | .next t => t
  | .fault _ | .refused _ => s

/-- Whether a command is answered with a result code and leaves the rest as it was. -/
def answers (c : Instr) (s : State) (code : ResultCode) : Bool :=
  gives c s fun t => (t.host.buffer.map Response.code == some code)

/-! ## WellFormed refuses -/

theorem test_frame_without_length_is_ill_formed : (Instr.readTime ⟨0, 1⟩).wellFormed = false := by decide
theorem test_frame_without_verb_is_ill_formed : (Instr.setTime ⟨5, 0⟩ 0).wellFormed = false := by decide
theorem test_count_above_a_byte_is_ill_formed :
    (Instr.ratingPoints ⟨3, 3⟩ 0 (List.replicate 256 ⟨0, 0⟩)).wellFormed = false ∧
      (Instr.gaugingVerticals ⟨3, 3⟩ 0 (List.replicate 256 ⟨0, 0, 0, 0, 0, 0⟩)).wellFormed = false := by
  constructor <;> simp only [Instr.wellFormed, List.length_replicate] <;> decide
theorem test_known_code_is_no_unknown_verb : (Instr.unknownVerb ⟨1, 1⟩ (some 0x67)).wellFormed = false := by decide
theorem test_missing_verb_has_no_bytes : (Instr.unknownVerb ⟨2, 1⟩ none).wellFormed = false := by decide
set_option maxRecDepth 4000 in
theorem test_character_of_wrong_length_is_ill_formed :
    (Instr.characterCompletion .sbus (List.replicate 169 false) true).wellFormed = false ∧
      (Instr.characterCompletion .wrx (List.replicate 153 false) true).wellFormed = false ∧
      (Instr.characterCompletion .wrx (List.replicate 154 true) true).wellFormed = false := by
  decide
theorem test_empty_or_long_message_is_ill_formed :
    (Instr.winchLinkError ⟨[], false, false, false⟩).wellFormed = false ∧
      (Instr.winchLinkError ⟨List.replicate 8 0, false, false, false⟩).wellFormed = false := by decide
theorem test_well_formed_commands : (Instr.unknownVerb ⟨1, 1⟩ (some 0x68)).wellFormed = true ∧
    (Instr.setTime ⟨5, 5⟩ 0).wellFormed = true ∧
    (Instr.characterCompletion .wrx (List.replicate 154 false) true).wellFormed = true ∧
    (Instr.winchLinkError ⟨[0x42, 0], false, false, false⟩).wellFormed = true := by
  simp [Instr.wellFormed, samplesOk, charSamples, unknownFrameOk, verbCodes, FrameLen.carriesVerb, WinchMessage.sized]

/-! ## No row has bits, and frames written out from R186 and R187 -/

theorem test_no_row_has_bits : decodeTableWord 32 0 = none ∧ (State.reset.withFetchWord 32 0).pending = [] := by decide
theorem test_frame_setTime : decodeFrame 5 [0x01, 0x10, 0x32, 0x54, 0x76] = .setTime ⟨5, 5⟩ 0x76543210 := by decide
theorem test_frame_portConfig : decodeFrame 11 [0x10, 2, 1, 30, 0xA0, 0x15, 0xFF, 0xFF, 4, 3, 10] =
    .portConfig ⟨11, 11⟩ 2 1 30 (-60000) 4 3 10 := by decide
theorem test_frame_busConfig : decodeFrame 5 [0x15, 0xFF, 0x0F, 0x3C, 0x00] = .busConfig ⟨5, 5⟩ 4095 60 := by decide
theorem test_frame_observerEntry :
    decodeFrame 7 [0x22, 0x30, 0xF8, 1, 0, 0, 0] = .observerEntry ⟨7, 7⟩ (-2000) 1 := by decide
theorem test_frame_ratingPoints : decodeFrame 9 [0x31, 1, 1, 0x2C, 0x01, 0x60, 0x09, 0, 0] =
    .ratingPoints ⟨9, 9⟩ 1 [⟨300, 2400⟩] := by decide
theorem test_frame_shiftPut :
    decodeFrame 8 [0x35, 2, 0xE8, 3, 0, 0, 0xFA, 0xFF] = .shiftPut ⟨8, 8⟩ 2 1000 (-6) := by decide
theorem test_frame_watchPut :
    decodeFrame 18 [0x41, 2, 1, 0, 0x60, 0xEA, 0, 0, 0x50, 0xC3, 0, 0, 1, 2, 3, 5, 1, 1] =
      .watchPut ⟨18, 18⟩ 2 1 0 60000 50000 1 2 3 5 1 1 := by decide
theorem test_frame_watchAck : decodeFrame 2 [0x43, 17] = .watchAck ⟨2, 2⟩ 17 := by decide
theorem test_frame_meterConfig : decodeFrame 13 [0x54, 40, 1, 12, 0xF0, 0, 0xE8, 3, 0, 0, 5, 0xFA, 0] =
    .meterConfig ⟨13, 13⟩ 40 1 12 240 1000 5 250 := by decide
theorem test_frame_gaugingVerticals :
    decodeFrame 15 [0x61, 1, 1, 0x70, 0x17, 0, 0, 3, 0, 0, 0, 0, 0, 0x52, 3] =
      .gaugingVerticals ⟨15, 15⟩ 1 [⟨6000, 3, 0, 0, 0, 850⟩] := by decide
theorem test_frame_gaugingAdopt : decodeFrame 4 [0x66, 1, 0xD3, 0xFF] = .gaugingAdopt ⟨4, 4⟩ 1 (some (-45)) ∧
    decodeFrame 2 [0x66, 1] = .gaugingAdopt ⟨2, 2⟩ 1 none := by decide
/-- R176: a read of two bytes, a READ_TIME frame, and seven bits of a byte. -/
theorem test_transaction_bits : decodeTransaction (List.replicate 24 false) = .readTransaction 2 ∧
    decodeTransaction [false, false, false, false, false, false, false, true, false, false, false, false, false, false,
      true, false] = .readTime ⟨1, 1⟩ ∧
    decodeTransaction (List.replicate 7 true) = .transactionBegin none := by decide
theorem test_frame_unknown : decodeFrame 1 [0x7F] = .unknownVerb ⟨1, 1⟩ (some 0x7F) := by decide

/-! ## Bytes sent (R186, R188, R189) -/

/-- R189's example: HOIST_TO 2,834 mm. -/
theorem test_hoistTo_2834 : (WinchCommand.hoistTo 2834).chars = [0x32, 0x12, 0x0B, 0xB1] := by decide
/-- R188: a POLL frame to address 3. -/
theorem test_poll_frame : masterFrame 3 0x21 = [⟨3, true⟩, ⟨0x21, false⟩, ⟨0, false⟩] := by decide
/-- R186: a refusal by the frame checks has length 3, and an UNKNOWN_VERB response length 2. -/
theorem test_refusal_bytes : (Response.mk .badField 0x01 (.frameFault .long)).frame = [3, 4, 0x01, 1] ∧
    (Response.mk .unknownVerb 0x7F .nil).frame = [2, 7, 0x7F] := by decide
/-- R186: WATCH(0) is bit 9 and CABLEWAY bit 37 of the five bytes. -/
theorem test_attention_bytes :
    (Response.mk .ok 0x04 (.attention (withMember (withMember 0 (.watch 0)) .cableway))).frame =
      [7, 0, 0x04, 0x00, 0x02, 0x00, 0x00, 0x20] := by decide

/-! ## Worked cases of the manual -/

/-- Section 3.7 and 3.10: the filter's steps, half away from zero. -/
theorem test_filter_steps : filteredRise 210 (-60) 2 = 142 ∧ filteredRise 142 300 2 = 182 ∧
    filteredRise 182 1980 2 = 632 ∧ filteredRise 632 (-1260) 2 = 159 := by decide
/-- Section 3.10: the instantaneous rate is in mm/h. -/
theorem test_instant_rate : instantRate 1200 1196 10000 9940 = 240 := by decide

/-- The rating of section 5.6. -/
def points56 : List Point := [⟨300, 0⟩, ⟨500, 2400⟩, ⟨900, 14000⟩, ⟨1500, 52000⟩]

/-- The shifts of section 5.6. -/
def shifts56 : List Shift := [⟨1000, 10⟩, ⟨5000, -6⟩]

/-- Section 5.6: proration of the shift. -/
theorem test_proration : effectiveShift shifts56 800 = 10 ∧ effectiveShift shifts56 1125 = 9 ∧
    effectiveShift shifts56 3000 = 2 ∧ effectiveShift shifts56 5000 = -6 ∧ effectiveShift shifts56 9000 = -6 := by decide
/-- Section 5.6: proration between records that round to 0 and to −1. -/
theorem test_proration_after_put : effectiveShift [⟨1000, 10⟩, ⟨3000, 5⟩, ⟨5000, -6⟩] 3060 = 5 ∧
    effectiveShift [⟨1000, 10⟩, ⟨3000, 5⟩, ⟨5000, -6⟩] 3120 = 4 := by decide
/-- Section 5.6: discharges within, below and above the rating. -/
theorem test_discharges : dischargeAt points56 400 814 = ⟨11506, false, false, false⟩ ∧
    dischargeAt points56 400 300 = ⟨0, false, false, false⟩ ∧ dischargeAt points56 400 295 = ⟨0, true, false, false⟩ ∧
    dischargeAt points56 400 1874 = ⟨75687, false, true, false⟩ ∧
    dischargeAt points56 400 2100 = ⟨77333, false, true, true⟩ := by decide
/-- Section 5.6: the inverse on the same rating. -/
theorem test_inverse : (inverseRequest points56 400 11506).stage = some 814 ∧
    (inverseRequest points56 400 2400).stage = some 500 ∧ (inverseRequest points56 400 60000).stage = some 1626 ∧
    (inverseRequest points56 400 80000).stage = none ∧
    (inverseRequest [⟨250, 0⟩, ⟨300, 0⟩, ⟨500, 2400⟩] 400 0).stage = some 250 := by decide

/-- The meter of section 8.7. -/
def meter87 : MeterRating := ⟨1, 12, 240, 1000, 5, 250⟩

/-- Section 8.7: revolution rates. -/
theorem test_revolution_rates : revolutionRate 48 1 40 = 1200 ∧ revolutionRate 33 1 45 = 733 ∧
    revolutionRate 1 1 80 = 13 ∧ revolutionRate 1600 1 20 = 80000 ∧ revolutionRate 96 2 40 = 1200 := by decide


/-! ## Witnesses: the step, the resets and the command port -/

/-- A state with one port rewritten. -/
def withPort (p : Fin 4) (f : Port → Port) (s : State) : State := { s with ports := putAt s.ports p (f (s.ports.get p)) }

/-- A state whose response buffer holds the answer of a PORT_ENABLE of another port, and that has a member set. -/
def answered : State :=
  { State.reset with host := { State.reset.host with buffer := some ⟨.ok, 0x45, .moveTimeout 5⟩, attention := 2#40 } }

theorem witness_ResetsTakeEveryRecordToItsResetValue :
    (after .powerOnReset answered).inReset = true ∧ answered.inReset = false ∧
      gives .resetRelease (after .powerOnReset answered) (fun t => t.bus.cycleLeft == some 60000) = true ∧
      gives .countEvent (after .powerOnReset answered) (fun t => t == after .powerOnReset answered) = true ∧
      (after .resetRelease (after .powerOnReset (after (.transactionBegin (some ⟨5, 1⟩)) answered))).host.ignoring = true ∧
      gives (.readTime ⟨1, 1⟩) (after .resetRelease (after .powerOnReset (after (.transactionBegin (some ⟨5, 1⟩)) answered)))
        (fun t => !t.rdy && !t.host.ignoring && answers (.readTime ⟨1, 1⟩) t .ok) = true ∧
      gives (.readTransaction 1) (after .resetRelease (after (.transactionBegin (some ⟨0, 0⟩)) (after .powerOnReset .reset)))
        (fun t => t.host.sdo == [] && !t.host.ignoring) = true ∧
      gives (.reset ⟨1, 1⟩) answered (fun t => t.host.attention == 0 && t.rdy) = true := by decide

theorem witness_FrameChecksRefuseInOrder :
    (Instr.gaugingAdopt ⟨4, 3⟩ 1 (some 7)).frameLen = some ⟨4, 3⟩ ∧
      encodeVerb (.gaugingAdopt ⟨4, 3⟩ 1 (some 7)) = some [0x66, 1, 7, 0] ∧
      gives (.gaugingAdopt ⟨4, 3⟩ 1 (some 7)) .reset
        (fun t => t.host.buffer == some ⟨.badField, 0x66, .frameFault .short⟩) = true ∧
      gives (.gaugingAdopt ⟨4, 5⟩ 1 (some 7)) .reset
        (fun t => t.host.buffer == some ⟨.badField, 0x66, .frameFault .long⟩) = true ∧
      gives (.gaugingAdopt ⟨3, 3⟩ 1 (some 7)) .reset
        (fun t => t.host.buffer == some ⟨.badField, 0x66, .frameFault .layout⟩) = true ∧
      gives (.unknownVerb ⟨3, 3⟩ (some 0x70)) .reset
        (fun t => t.host.buffer == some ⟨.unknownVerb, 0x70, .nil⟩) = true := by decide

theorem witness_TransactionsKeepTheResponseUntilReadWhole : answered.inReset = false ∧
    answered.host.buffer = some ⟨.ok, 0x45, .moveTimeout 5⟩ ∧ (Response.mk .ok 0x45 (.moveTimeout 5)).frame.length = 5 ∧
    gives (.readTransaction 4) answered (fun t => t.rdy) = true ∧
    gives (.readTransaction 5) answered (fun t => !t.rdy) = true ∧
    gives (.readTransaction 6) answered (fun t => t.host.sdo == [0xFF, 4, 0, 0x45, 5, 0, 0xFF]) = true ∧
    State.reset.host.buffer = none ∧ State.reset.host.ignoring = false ∧
    gives (.transactionBegin none) answered (fun t => t == answered) = true ∧
    gives (.transactionBegin (some ⟨0, 3⟩)) answered
      (fun t => t.host.reception == .read 3 && t.host.sdo == [0xFF, 4, 0, 0x45] && t.rdy) = true ∧
    gives (.transactionBegin (some ⟨0, 2⟩)) .reset (fun t => t.host.sdo == [0xFF, 0x00, 0xFF] && t.host.reception == .read 2) = true ∧
    gives (.transactionBegin (some ⟨5, 2⟩)) answered
      (fun t => t.host.reception == .command 5 2 && t.host.sdo == [0xFF, 0xFF, 0xFF]) = true ∧
    gives (.setTime ⟨5, 5⟩ 7) answered (fun t => t.host.sdo == [0xFF, 0xFF, 0xFF, 0xFF, 0xFF, 0xFF] && t.rdy) = true ∧
    gives (.readTransaction 2) .reset (fun t => t.host.sdo == [0xFF, 0x00, 0xFF]) = true ∧
    gives (.readTransaction 1) .reset (fun t => t.host.sdoBits ==
      List.replicate 8 true ++ List.replicate 8 false) = true ∧
    ({ CommandPort.reset with sdo := [0xB1] }).sdoBits = [true, false, true, true, false, false, false, true] := by decide

theorem witness_TheClockAndTheAttentionSetAreServed :
    gives (.setTime ⟨5, 5⟩ 4294967295) .reset (fun t => t.host.time == 4294967295 && !t.host.clockUnset &&
      gives .stationTimeRise t fun u => u.host.time == 4294967295) = true ∧
    gives .stationTimeRise .reset (fun t => t.host.time == 1) = true ∧
    gives (.readAttention ⟨1, 1⟩) answered
      (fun t => t.host.buffer == some ⟨.ok, 0x04, .attention 2#40⟩ && !t.attn) = true := by decide

theorem witness_EveryVerbFrameDecodesToItsVerb :
    (Instr.gaugingAdopt ⟨4, 4⟩ 1 (some 7)).frameLen = some ⟨4, 4⟩ ∧
      encodeVerb (.gaugingAdopt ⟨4, 4⟩ 1 (some 7)) = some [0x66, 1, 7, 0] ∧ (4 : Byte).toNat = 4 ∧
      decodeFrame 4 [0x66, 1, 7, 0] = .gaugingAdopt ⟨4, 4⟩ 1 (some 7) := by decide

/-! ## Witnesses: ports -/

/-- A port with a PRESSURE head, the host's consent and a closed latch, in a state. -/
def inService (st : PortState) (timer : Option PortTimer) (lit : Bool) (r : Port) : Port :=
  { r with state := st, enabled := true, present := true, latchClosed := true, kind := .pressure, timer := timer,
           blinkLit := lit }

/-- Port 0 ONLINE, port 1 in its power-good wait, port 2 WAITING behind it, port 3 DISABLED. -/
def mixed : State :=
  { withPort 3 (fun r => { r with state := .disabled, present := true, latchClosed := true })
      (withPort 2 (inService .waiting none false) (withPort 1 (inService .powering (some (.powerGoodWait 2000)) true)
        (withPort 0 (inService .online none false) .reset))) with
    powerQueue := [2] }

/-- Port 0 REMOVING, port 1 IDENTIFYING with the line, port 2 FAULTED, port 3 ready but for its latch. -/
def busy : State :=
  let s := withPort 3 (fun r => { inService .empty none false r with latchClosed := false })
    (withPort 2 (fun r => { inService .faulted none true r with faultCause := some .noIdentity })
      (withPort 1 (inService .identifying none true) (withPort 0 (inService .removing (some (.holdOff 1)) true) .reset)))
  { s with bus := { s.bus with holder := .user (.ident 1), phase := .window 2 } }

theorem mixed_powerLaw : PowerLaw mixed := ⟨by decide, by decide, by decide, by decide⟩
theorem mixed_portLaw : PortLaw mixed := by unfold PortLaw; decide
theorem mixed_lineLaw : LineLaw mixed := ⟨by decide, by decide, by decide, by decide, by decide⟩
theorem busy_powerLaw : PowerLaw busy := ⟨by decide, by decide, by decide, by decide⟩
theorem busy_portLaw : PortLaw busy := by unfold PortLaw; decide
theorem busy_lineLaw : LineLaw busy := ⟨by decide, by decide, by decide, by decide, by decide⟩

theorem witness_PortConfigWritesTheSixFields : mixed.inReset = false ∧
    portFields 1 31 0 1 0 3 = none ∧ portFields 1 30 (-60000) 4 3 10 = some ⟨.pressure, 30, -60000, 4, .fixed500, 10⟩ ∧
    answers (.portConfig ⟨11, 11⟩ 4 1 30 0 1 0 3) mixed .badField = true ∧
    answers (.portConfig ⟨11, 11⟩ 3 1 31 0 1 0 3) mixed .badField = true ∧
    answers (.portConfig ⟨11, 11⟩ 3 1 1 0 1 0 3) mixed .badField = true ∧
    answers (.portConfig ⟨11, 11⟩ 0 0 1 0 1 0 3) mixed .wrongState = true ∧
    gives (.portConfig ⟨11, 11⟩ 0 1 1 150 2 0 10) mixed
      (fun t => (t.ports.get 0).datum == 150 && (t.ports.get 0).missLimit == 10) = true ∧
    gives (.portConfig ⟨11, 11⟩ 3 1 30 (-60000) 4 3 10) mixed
      (fun t => (t.ports.get 3).datum == -60000 && (t.ports.get 3).address == 30) = true := by decide

theorem witness_PortEnableByState : PowerLaw mixed ∧ PowerLaw busy ∧ (mixed.ports.get 3).state = .disabled ∧
    (busy.ports.get 2).state = .faulted ∧
    gives (.portEnable ⟨2, 2⟩ 0) mixed (fun t => t.ports == mixed.ports) = true ∧
    gives (.portEnable ⟨2, 2⟩ 3) mixed (fun t => (t.ports.get 3).state == .waiting && t.powerQueue == [2, 3]) = true ∧
    gives (.portEnable ⟨2, 2⟩ 2) busy
      (fun t => (t.ports.get 2).state == .powering && (t.ports.get 2).faultCause == none) = true ∧
    gives (.portEnable ⟨2, 2⟩ 0) .reset (fun t => (t.ports.get 0).state == .empty && (t.ports.get 0).enabled) = true :=
  ⟨mixed_powerLaw, busy_powerLaw, by decide, by decide, by decide, by decide, by decide, by decide⟩

theorem witness_PortDisableTakesThePortOut : PowerLaw mixed ∧ PortLaw mixed ∧ LineLaw mixed ∧
    PowerLaw busy ∧ PortLaw busy ∧ LineLaw busy ∧
    gives (.portDisable ⟨2, 2⟩ 3) mixed (fun t => t.ports == mixed.ports) = true ∧
    gives (.portDisable ⟨2, 2⟩ 1) mixed
      (fun t => (t.ports.get 1).state == .disabled && (t.ports.get 2).state == .powering && t.powerQueue == []) = true ∧
    gives (.portDisable ⟨2, 2⟩ 2) busy
      (fun t => (t.ports.get 2).state == .faulted && !(t.ports.get 2).enabled) = true ∧
    gives (.portDisable ⟨2, 2⟩ 1) busy (fun t => t.bus.holder == .free) = true :=
  ⟨mixed_powerLaw, mixed_portLaw, mixed_lineLaw, busy_powerLaw, busy_portLaw, busy_lineLaw, by decide, by decide,
    by decide, by decide⟩

theorem witness_InsertionAsksForPower : PowerLaw busy ∧ PortLaw busy ∧
    gives (.latchClosing 3) busy (fun t => (t.ports.get 3).state == .powering &&
      (t.ports.get 3).timer == some (.powerGoodWait 2000) && hasMember t.host.attention (.port 3)) = true ∧
    gives (.presenceArrival 3) busy (fun t => (t.ports.get 3).state == .empty && !t.attn) = true :=
  ⟨busy_powerLaw, busy_portLaw, by decide, by decide⟩

theorem witness_LossesEmptyOrFaultThePort : PowerLaw mixed ∧ PortLaw mixed ∧ LineLaw mixed ∧
    gives (.presenceLoss 3) busy (fun t => !(t.ports.get 3).present && !t.attn) = true ∧
    gives (.presenceLoss 1) mixed (fun t => (t.ports.get 1).state == .empty && (t.ports.get 2).state == .powering) = true ∧
    gives (.latchOpening 0) mixed (fun t => (t.ports.get 0).faultCause == some .latchOpened) = true ∧
    gives (.latchOpening 2) mixed (fun t => (t.ports.get 2).state == .empty && t.powerQueue == []) = true ∧
    gives (.latchOpening 3) mixed (fun t => (t.ports.get 3).state == .disabled && !(t.ports.get 3).latchClosed) = true :=
  ⟨mixed_powerLaw, mixed_portLaw, mixed_lineLaw, by decide, by decide, by decide, by decide, by decide⟩

theorem witness_StatusAssertionIsAPowerFault : PowerLaw mixed ∧ PortLaw mixed ∧ LineLaw mixed ∧
    gives (.statusAssertion 0) mixed (fun t => (t.ports.get 0).faultCause == some .powerFault) = true ∧
    gives (.statusAssertion 1) mixed (fun t => (t.ports.get 1).state == .powering && (t.ports.get 1).statusAsserted) = true ∧
    gives (.statusAssertion 1) (withPort 1 (fun r => { r with timer := some (.fixedDelay 100) }) mixed)
      (fun t => (t.ports.get 1).state == .faulted && (t.ports.get 2).state == .powering) = true ∧
    gives (.statusAssertion 2) mixed (fun t => (t.ports.get 2).state == .waiting) = true :=
  ⟨mixed_powerLaw, mixed_portLaw, mixed_lineLaw, by decide, by decide, by decide, by decide⟩

theorem witness_TheButtonRemovesAHead : PowerLaw mixed ∧ PortLaw mixed ∧ LineLaw mixed ∧
    (busy.ports.get 0).timer = some (.holdOff 1) ∧
    gives (.buttonPress 0) mixed (fun t => (t.ports.get 0).timer == some (.holdOff 5000)) = true ∧
    gives (.buttonPress 0) busy (fun t => (t.ports.get 0).state == .online) = true ∧
    gives (.buttonPress 2) mixed (fun t => (t.ports.get 2).state == .empty && (t.ports.get 2).removedNotPulled) = true ∧
    gives (.buttonPress 3) mixed
      (fun t => t.ports == putAt mixed.ports 3 { mixed.ports.get 3 with button := true } && !t.attn) = true ∧
    gives (.holdOffExpiry 0) busy (fun t => (t.ports.get 0).state == .empty && (t.ports.get 0).removedNotPulled) = true :=
  ⟨mixed_powerLaw, mixed_portLaw, mixed_lineLaw, by decide, by decide, by decide, by decide, by decide, by decide⟩

/-- The queue's front could be taken: port 1 has left POWERING without its take. -/
def untaken : State := withPort 1 (fun r => { r with state := .disabled, timer := none }) mixed

theorem witness_PowerIsGivenAndComesGood : PowerLaw mixed ∧ PortLaw mixed ∧ LineLaw mixed ∧
    untaken.powerQueue = 2 :: [] ∧ (untaken.ports.get 2).state = .waiting ∧
    (∀ q : Fin 4, (untaken.ports.get q).state ≠ .powering) ∧
    gives .powerSequencerTake untaken (fun t => (t.ports.get 2).timer == some (.powerGoodWait 2000)) = true ∧
    gives .powerSequencerTake (withPort 2 (fun r => { r with pgMode := .fixed100 }) untaken)
      (fun t => (t.ports.get 2).timer == some (.fixedDelay 100)) = true ∧
    gives (.lampBlink 1) mixed (fun t => !(t.ports.get 1).blinkLit) = true ∧
    gives (.powerGood 1) mixed (fun t => t.bus.holder == .user (.ident 1) && (t.ports.get 2).state == .powering) = true ∧
    gives (.fixedDelayEnd 1) (withPort 1 (fun r => { r with timer := some (.fixedDelay 0) }) mixed)
      (fun t => (t.ports.get 1).state == .identifying) = true ∧
    gives (.powerGood 1) (after (.statusAssertion 1) mixed) (fun t => t == after (.statusAssertion 1) mixed) = true ∧
    (mixed.ports.get 1).statusAsserted = false ∧
    gives (.pgTimeout 1) mixed (fun t => (t.ports.get 1).faultCause == some .pgTimeout) = true :=
  ⟨mixed_powerLaw, mixed_portLaw, mixed_lineLaw, by decide, by decide, by decide, by decide, by decide, by decide,
    by decide, by decide, by decide, by decide, by decide⟩

/-! ## Witnesses: the sensor bus -/

/-- A line held by a user, in a phase. -/
def lineHeld (h : Holder) (ph : Phase) (q : List LineUser) (s : State) : State :=
  { s with bus := { s.bus with holder := h, phase := ph, queue := q } }

/-- Port 0 being polled, its window open, an identity request waiting. -/
def polling : State :=
  let s := lineHeld (.user .round) (.window 1) [] (withPort 0 (fun r => { r with missCount := 2 }) mixed)
  { s with bus := { s.bus with roundTodo := [0] } }

/-- A receiver that has taken the characters of a reply. -/
def taken (l : List Byte) : Receiver := { Receiver.reset with taken := l.map fun c => ⟨c, false, false⟩ }

/-- The POLL reply of address 1 with raw reading −2 and head status DEGRADED. -/
def pollReply : List Byte := [1, 0, 4, 0xFE, 0xFF, 0xFF, 1, 0xFE]

/-- A state in which a reply to address 1 has been taken. -/
def replied (l : List Byte) (s : State) : State := { s with bus := { s.bus with phase := .reply 1, rx := taken l } }

theorem witness_BusConfigAndHeadZeroAreTaken : bitRate 23 = 9600 ∧ bitRate 0 = 230400 ∧ 16 * (23 + 1) ∣ 3686400 ∧
    ¬16 * (22 + 1) ∣ 3686400 ∧ State.reset.bus.holder = .free ∧ polling.bus.holder ≠ .free ∧
    answers (.busConfig ⟨5, 5⟩ 4096 60) .reset .badField = true ∧
    gives (.busConfig ⟨5, 5⟩ 4095 3601) .reset
      (fun t => t.bus.divisor == 4095 && t.bus.period == 3600 && t.bus.cycleLeft == some 3600000) = true ∧
    gives (.busConfig ⟨5, 5⟩ 0 0) polling
      (fun t => t.bus.divisor == 23 && t.bus.pendingDivisor == some 0 && t.bus.period == 1) = true ∧
    gives (.busConfig ⟨5, 5⟩ 23 60) polling
      (fun t => t.bus.pendingDivisor == none && t.bus.cycleLeft == some 60000) = true ∧
    answers (.headZero ⟨2, 2⟩ 2) mixed .wrongState = true ∧
    gives (.headZero ⟨2, 2⟩ 0) mixed (fun t => t.bus.holder == .user (.zero 0) &&
      answers (.headZero ⟨2, 2⟩ 0) t .busy) = true ∧
    gives (.headZero ⟨2, 2⟩ 0) polling (fun t => t.bus.queue == [.zero 0]) = true := by decide

theorem witness_TheBreakRestartsEveryHead :
    gives (.busRestart ⟨1, 1⟩) (lineHeld (.user (.zero 0)) .awaitFrame [.round, .ident 1] busy)
      (fun t => t.bus.holder == .brk && t.bus.queue == [.round, .ident 0, .ident 1] &&
        (t.ports.get 0).state == .identifying && (t.bus.status.get 0).zero == .cancelled &&
        answers (.busRestart ⟨1, 1⟩) t .busy) = true ∧
    (lineHeld .recovery .idle [] busy).bus.holder = .recovery := by decide

theorem witness_TheStageCycleOffersARound :
    gives .stageCycleExpiry polling (fun t => hasMember t.host.attention .roundOverrun) = true ∧
    gives .stageCycleExpiry (lineHeld (.user (.ident 1)) .awaitFrame [] busy) (fun t => t.bus.queue == [.round]) = true ∧
    mixed.bus.holder = .free ∧ mixed.bus.queue = [] ∧ roundMembers mixed.ports = [0] ∧
    gives .stageCycleExpiry mixed (fun t => t.bus.roundTodo == [0] && t.bus.holder == .user .round) = true ∧
    roundMembers State.reset.ports = [] ∧
    gives .stageCycleExpiry .reset (fun t => t.lastFlow.map (fun x => x.sample.time) == some 0) = true := by decide

theorem witness_TheLineIsGrantedAndCarriesFrames :
    gives .lineGrant (lineHeld .free .idle [.ident 1, .round] busy) (fun t => t.bus.holder == .user (.ident 1)) = true ∧
    gives .lineGrant (lineHeld .free .idle [.round] busy) (fun t => t.bus.roundTodo == [0]) = true ∧
    gives .pendingDivisorApply { State.reset with bus := { Bus.reset with pendingDivisor := some 95 } }
      (fun t => t.bus.divisor == 95) = true ∧
    gives .breakEnd (lineHeld .brk .idle [] .reset) (fun t => t.bus.holder == .recovery) = true ∧
    gives .recoveryEnd (lineHeld .recovery .idle [] .reset) (fun t => t.bus.holder == .free) = true ∧
    gives .recoveryEnd (lineHeld .recovery .idle [.ident 1] busy) (fun t => t.bus.holder == .user (.ident 1)) = true ∧
    gives .recoveryEnd (lineHeld .recovery .idle [.round, .ident 1] busy)
      (fun t => t.bus.holder == .user .round && t.bus.roundTodo == [0] && t.bus.queue == [.ident 1]) = true ∧
    gives .recoveryEnd (lineHeld .recovery .idle [.round, .zero 0] .reset)
      (fun t => t.bus.holder == .user (.zero 0) && t.lastFlow.isSome) = true ∧
    gives .lineGrant (lineHeld .free .idle [.round] .reset)
      (fun t => t.bus.holder == .free && t.bus.queue == [] && t.lastFlow.isSome) = true ∧
    gives .lineIdleRelease { State.reset with bus := { Bus.reset with awaitIdle := true } }
      (fun t => !t.bus.awaitIdle) = true ∧
    gives .stray .reset (fun t => hasMember t.host.attention .busError) = true ∧
    gives .masterFrameBegin (lineHeld (.user (.ident 1)) .awaitFrame [] busy)
      (fun t => t.bus.phase == .sending 2 && t.bus.txFrame == masterFrame 2 0x22) = true ∧
    gives .masterFrameBegin { polling with bus := { polling.bus with phase := .awaitFrame } }
      (fun t => t.bus.txFrame == masterFrame 1 0x21) = true ∧
    gives .masterFrameEnd (lineHeld (.user (.ident 1)) (.sending 2) [] busy) (fun t => t.bus.phase == .window 2) = true ∧
    gives .startBitAccepted polling (fun t => t.bus.phase == .reply 1) = true ∧
    (after .masterFrameBegin { polling with bus := { polling.bus with phase := .awaitFrame } }).bus.sentBits =
      [false, true, false, false, false, false, false, false, false, true, true,
       false, true, false, false, false, false, true, false, false, false, true,
       false, false, false, false, false, false, false, false, false, false, true] := by decide

/-- The samples of a character of SBUS: each bit low or high for its sixteen samples, and the stop bit's first ten. -/
def samples170 (d : Byte) (mark stop : Bool) : List Bool :=
  ((List.range 11).flatMap fun k => List.replicate 16 (if k = 0 then false else if k ≤ 8 then d.getLsbD (k - 1)
    else if k = 9 then mark else stop)).take 170

/-- A receiver in a mode, with a character held. -/
def receiverIn (m : RxMode) (held : Option RxChar) : Receiver := { Receiver.reset with mode := m, holding := held }

/-- R25: a high sample, a start bit that is low only at its first samples, and the line at rest again. -/
def falseStart : List Bool := [true, false, false, false, true, true, true, true, true, true, true]

set_option maxRecDepth 4000 in
theorem witness_CharactersAreDelivered : sbusChar (samples170 0xA5 true true) = some ⟨0xA5, true, false⟩ ∧
    sbusChar ((replied [] polling).bus.rx.run (true :: samples170 0xA5 true true)) = some ⟨0xA5, true, false⟩ ∧
    gives (.characterCompletion .sbus (true :: samples170 0xA5 true true) true) (replied [] polling)
      (fun t => t.bus.rx == { receiverIn .hunting (some ⟨0xA5, true, false⟩) with lastHigh := true }) = true ∧
    gives (.characterCompletion .sbus (true :: samples170 0xA5 true true) false) polling
      (fun t => t.bus.phase == .reply 1 && t.bus.rx.holding == some ⟨0xA5, true, false⟩) = true ∧
    gives (.characterCompletion .sbus (true :: samples170 0xA5 true true) true) .reset
      (fun t => hasMember t.host.attention .busError) = true ∧
    gives (.characterCompletion .wrx (true :: (samples170 0x42 true true).take 154) true) .reset
      (fun t => t.carriage.rx.holding == some ⟨0x42, false, false⟩) = true := by decide

set_option maxRecDepth 4000 in
theorem witness_CharactersAreDelivered_overrun :
    gives (.characterCompletion .sbus (samples170 0xA5 true true) false)
      { polling with bus := { polling.bus with phase := .reply 1, rx := receiverIn .receiving (some ⟨1, false, false⟩) } }
      (fun t => t.bus.rx.overrun && t.bus.rx.holding == some ⟨1, false, false⟩) = true ∧
    gives (.characterCompletion .sbus (samples170 0xA5 true true) true)
      { polling with bus := { polling.bus with phase := .reply 1, rx := receiverIn .receiving (some ⟨1, false, false⟩) } }
      (fun t => t.bus.rx.taken == [⟨1, false, false⟩] && !t.bus.rx.overrun) = true ∧
    gives (.characterCompletion .wrx (samples170 0x42 true true) false)
      { State.reset with carriage := { Carriage.reset with rx := receiverIn .receiving (some ⟨0x41, false, false⟩) } }
      (fun t => t.carriage.rx.overrun && t.carriage.rx.holding == some ⟨0x41, false, false⟩) = true ∧
    gives (.characterCompletion .wrx (samples170 0x42 true true) true)
      { State.reset with carriage := { Carriage.reset with rx := receiverIn .receiving (some ⟨0x41, false, false⟩) } }
      (fun t => t.carriage.rx.taken == [⟨0x41, false, false⟩]) = true := by decide

set_option maxRecDepth 4000 in
/-- R25: the wait for a high sample, the hunt and the false start. -/
theorem witness_CharactersAreDelivered_hunt :
    (receiverIn .waitHigh none).run [false, false] = [] ∧
    (receiverIn .waitHigh none).heard [false, false] = receiverIn .waitHigh none ∧
    (samples170 7 true true).head? = some false ∧ bitAt (samples170 7 true true) 0 = false ∧
    (receiverIn .waitHigh none).run ([false] ++ [true, true] ++ samples170 7 true true) = samples170 7 true true ∧
    (receiverIn .hunting none).run ([false] ++ [true] ++ samples170 7 true true) = samples170 7 true true ∧
    wrxChar (State.reset.carriage.rx.run falseStart) = none ∧ sbusChar (State.reset.bus.rx.run falseStart) = none ∧
    gives (.characterCompletion .wrx falseStart true) .reset
      (fun t => t.carriage.rx == { Receiver.reset with lastHigh := true } && !t.attn) = true ∧
    gives (.characterCompletion .sbus falseStart true) polling (fun t => t.bus.phase == .window 1 && !t.attn) = true ∧
    gives (.characterCompletion .sbus (samples170 7 true true) true) (lineHeld (.user (.ident 1)) (.sending 2) [] busy)
      (fun t => t == lineHeld (.user (.ident 1)) (.sending 2) [] busy) = true := by decide

set_option maxRecDepth 4000 in
/-- R25, R28: two of the three middle samples decide a bit; a character in reception as its reply is cut off by the limit is
a stray when it completes. -/
theorem witness_CharactersAreDelivered_stray :
    bitAt (List.replicate 7 false ++ [true, false, true]) 0 = true ∧
    bitAt (List.replicate 7 true ++ [true, false, false]) 0 = false ∧
    (let s := replied [] polling
     let r := receiverIn .receiving none
     let t := after .replyLimit { s with bus := { s.bus with rx := r } }
     t.bus.rx.mode = .receiving ∧ hasMember { t with host := .reset }.host.attention .busError = false ∧
     gives (.characterCompletion .sbus (samples170 0 true true) true) { t with host := .reset }
       (fun u => hasMember u.host.attention .busError && u.bus.phase == .idle) = true ∧
     gives (.characterCompletion .sbus (samples170 0 true true) true)
       { s with bus := (Bus.broken { s.bus with rx := r }) } (fun u => hasMember u.host.attention .busError) = true) := by
  decide

/-- R33, R35, R36: the departure of a port whose poll is in flight drops a character in reception; that of a port being
identified does not. -/
theorem test_departure_and_reception :
    let r := receiverIn .receiving none
    let s := replied [] polling
    let i := lineHeld (.user (.ident 1)) (.reply 2) [] busy
    (after (.presenceLoss 0) { s with bus := { s.bus with rx := r } }).bus.rx.mode = .hunting ∧
    (after (.presenceLoss 1) { i with bus := { i.bus with rx := r } }).bus.rx.mode = .receiving := by decide

/-- Section 2.3's checks on a reply of raw −2, DEGRADED; a sum one too high. -/
theorem witness_AWellFormedPollReplyIsGood : replyOf .poll 1 (taken pollReply) = .good pollReply ∧
    readingOf pollReply = (-2, .degraded) ∧
    replyOf .poll 1 (taken [1, 0, 4, 0xFE, 0xFF, 0xFF, 1, 0xFF]) = .garbled .sum := by decide

theorem witness_PollResultsAreCounted : (polling.ports.get 0).state.polled = true ∧
    gives .replyWindowClose polling (fun t => (t.ports.get 0).missCount == 3 && (t.ports.get 0).silent) = true ∧
    gives .replyIdleEnd (replied pollReply polling)
      (fun t => (t.ports.get 0).missCount == 0 && (t.bus.status.get 0).lastReading == some (-2, .degraded)) = true ∧
    replyOf .poll 1 (replied [1, 0, 4] polling).bus.rx = .garbled .length ∧
    gives .replyIdleEnd (replied [1, 0, 4] polling) (fun t => (t.bus.status.get 0).garble == some .length &&
      (t.ports.get 0).missCount == 3 && (t.ports.get 0).silent && hasMember t.host.attention .busError) = true ∧
    gives .replyLimit (replied [1] polling) (fun t => t.bus.awaitIdle && (t.bus.status.get 0).garble == some .overlong &&
      (t.ports.get 0).missCount == 3 && (t.ports.get 0).silent) = true := by decide

/-- Slot 0 ready to come into force, key 0 watching the stage, and a class that the polled port keeps. -/
def watchful (s : State) : State :=
  let r := { RatingSlot.reset with state := .ready, generation := some 1, points := points56 }
  let w := Watch.installed .stage .below 0 5 1 1 1 0x01 false .hold
  { s with
    ratings := { s.ratings with slots := putAt s.ratings.slots 0 r }
    watches := { s.watches with table := putAt s.watches.table 0 (some w) } }

/-- R33, R34, R41, R57, R67, R86, R94: the round goes on to the next member still polled; its last poll closes it, and the
sample, the flow sample, the rating, the watch and the members follow. -/
theorem witness_PollResultsAreCounted_close :
    let s := replied pollReply (watchful polling)
    let t := after .replyIdleEnd s
    LineUser.round ∉ s.bus.queue ∧ (s.ports.get 0).state.polled = true ∧
    (after .replyIdleEnd (withPort 3 (inService .online none false) { s with bus := { s.bus with
        roundTodo := [0, 1, 3] } })).bus = { s.bus with
        phase := .awaitFrame, rx := .reset, roundTodo := [3], roundPolls := [⟨0, some (-2, .degraded)⟩]
        status := putAt s.bus.status 0 ⟨.valid, none, some (-2, .degraded), some 0, .none⟩ } ∧
    t.bus.holder = .free ∧ t.selector.lastSample = some ⟨0, some (-2), .good, some (.port 0), some 0, false, false⟩ ∧
    t.ratings.inForce = some 0 ∧ t.lastFlow.bind FlowSample.discharge = some 0 ∧
    (t.watches.table.get 0).map Watch.state = some .active ∧ t.watches.lines = 0x01 ∧
    hasMember t.host.attention .qualityChange = true ∧ hasMember t.host.attention .ratingSwap = true ∧
    hasMember t.host.attention (.watch 0) = true ∧ hasMember t.host.attention .sourceChange = false ∧
    readingsOf s.ports [⟨0, some (-2, .degraded)⟩] = [⟨0, some (-2), some .degraded, true, false⟩] ∧
    (after .replyWindowClose { polling with bus := { polling.bus with queue := [.zero 0] } }).bus.holder =
      .user (.zero 0) := by decide

/-- The IDENT reply of address 1: a kind code, firmware 7, serial 5. -/
def identReply (kind : Byte) : List Byte := [1, 0, 6, kind, 7, 5, 0, 0, 0, 0 - (19 + kind)]

/-- Port 0 IDENTIFYING with the line, after some attempts. -/
def asked (attempts : Nat) : State :=
  lineHeld (.user (.ident 0)) (.window 1) []
    (withPort 0 (fun r => { inService .identifying none true r with attempts := attempts }) .reset)

theorem witness_IdentityAndZeroOutcomes : (asked 0).inReset = false ∧
    gives .replyIdleEnd (replied (identReply 2) (asked 0)) (fun t => (t.ports.get 0).state == .online) = true ∧
    gives .replyIdleEnd (replied (identReply 9) (asked 0))
      (fun t => (t.ports.get 0).faultCause == some .wrongKind && (t.ports.get 0).identity == some ⟨9, 7, 5⟩) = true ∧
    gives .replyWindowClose (asked 0) (fun t => (t.ports.get 0).attempts == 1 && t.bus.holder == .user (.ident 0)) = true ∧
    gives .replyWindowClose (asked 1) (fun t => (t.ports.get 0).faultCause == some .noIdentity) = true ∧
    replyOf .ident 1 (replied [1] (asked 0)).bus.rx = .garbled .length ∧
    gives .replyIdleEnd (replied [1] (asked 0)) (fun t => (t.ports.get 0).attempts == 1 &&
      (t.bus.status.get 0).garble == some .length && t.bus.holder == .user (.ident 0)) = true ∧
    gives .replyIdleEnd (replied [1] (asked 1)) (fun t => (t.ports.get 0).faultCause == some .noIdentity) = true ∧
    gives .replyLimit (replied [1] (asked 1)) (fun t => (t.ports.get 0).faultCause == some .noIdentity &&
      t.bus.awaitIdle && (t.bus.status.get 0).garble == some .overlong) = true ∧
    replyOf .zero 1 (replied [1] (lineHeld (.user (.zero 0)) .idle [] mixed)).bus.rx = .garbled .length ∧
    gives .replyIdleEnd (replied [1] (lineHeld (.user (.zero 0)) .idle [] mixed))
      (fun t => (t.bus.status.get 0).zero == .garbled && hasMember t.host.attention .busError) = true ∧
    gives .replyLimit (replied [1] (lineHeld (.user (.zero 0)) .idle [] mixed))
      (fun t => (t.bus.status.get 0).zero == .garbled && t.bus.awaitIdle) = true ∧
    gives .replyWindowClose (lineHeld (.user (.zero 0)) (.window 1) [] mixed)
      (fun t => (t.bus.status.get 0).zero == .noReply) = true ∧
    gives .replyIdleEnd (replied [1, 0, 0, 0xFF] (lineHeld (.user (.zero 0)) .idle [] mixed))
      (fun t => (t.bus.status.get 0).zero == .done) = true ∧
    gives .replyIdleEnd (replied [1, 1, 0, 0xFE] (lineHeld (.user (.zero 0)) .idle [] mixed))
      (fun t => (t.bus.status.get 0).zero == .refused) = true := by decide

/-! ## Witnesses: stage, ratings, shifts and discharge -/

/-- The clock set at a time. -/
def clocked (n : Nat) (s : State) : State := { s with host := { s.host with time := n, clockUnset := false } }

theorem witness_StageVerbsWriteThePolicy :
    answers (.stagePolicy ⟨7, 7⟩ 0 5 20 30 2) .reset .badField = true ∧
    answers (.stagePolicy ⟨7, 7⟩ 5 5 20 30 2) .reset .badField = true ∧
    gives (.stagePolicy ⟨7, 7⟩ 4 0 1001 241 7) .reset (fun t => t.host.buffer == some ⟨.ok, 0x20, .policy 4 1 1000 240 6⟩) = true ∧
    answers (.observerEntry ⟨7, 7⟩ (-2001) 0) .reset .badField = true ∧
    answers (.observerEntry ⟨7, 7⟩ 30001 0) .reset .badField = true ∧
    answers (.observerEntry ⟨7, 7⟩ 30000 0) .reset .wrongState = true ∧
    gives (.observerEntry ⟨7, 7⟩ (-2000) 200) (clocked 2000 .reset)
      (fun t => t.host.buffer == some ⟨.ok, 0x22, .observer ⟨-2000, 200⟩ true⟩) = true ∧
    gives (.observerEntry ⟨7, 7⟩ (-2000) 199) (clocked 2000 .reset)
      (fun t => t.host.buffer == some ⟨.ok, 0x22, .observer ⟨-2000, 199⟩ false⟩) = true := by decide

/-- The selector of section 3.10 before its close at 10,180 s. -/
def selector310 : Selector :=
  { Selector.reset with
    returnDelay := 3, holdLimit := 5, source := some (.port 1), lastSource := some (.port 1), leads := #v[1, 0, 0, 0, 0],
    anchor := some 10120, heldStage := some 1204, primed := true, rise := 182, hPrev := some 1204, tPrev := some 10120 }

/-- Its three ports. -/
def ports310 : Vector Port 4 :=
  (withPort 2 (fun r => { inService .online none false r with kind := .radar, cls := 3, datum := 4500 })
    (withPort 1 (fun r => { inService .online none false r with cls := 2, datum := 150 })
      (withPort 0 (fun r => { inService .online none false r with kind := .shaft, cls := 1 }) .reset))).ports

/-- A reading record of a good poll. -/
def good (p : Fin 4) (raw : Int) : ReadingRecord := ⟨p, some raw, some .ok, true, false⟩

/-- Section 3.10: SUSPECT at 10,180 s; the change back at 10,240 s; HELD at 10,300 s and 10,540 s, LOST at 10,600 s. -/
theorem test_source_change_and_hold :
    let a := closeSelector 10180 ports310 [good 0 1211, good 1 1087, good 2 3291] selector310
    let b := closeSelector 10240 ports310 [good 0 1216, good 1 1069, good 2 3286] a
    a.lastSample = some ⟨10180, some 1237, .suspect, some (.port 1), some 632, true, false⟩ ∧
    b.lastSample = some ⟨10240, some 1216, .good, some (.port 0), some 159, false, true⟩ ∧
    (closeSelector 10540 ports310 [] b).lastSample = some ⟨10540, some 1216, .held, none, none, false, false⟩ ∧
    (closeSelector 10600 ports310 [] b).lastSample = some ⟨10600, none, .lost, none, none, false, false⟩ := by decide

/-- Section 3.10's readings at 10,180 s and 10,240 s. -/
def readings310 : List ReadingRecord := [good 0 1211, good 1 1087, good 2 3291]

/-- R46 to R53 on section 3.10: the lead that grows, the change at the return delay, RESELECT and no source to keep. -/
theorem witness_EveryCloseGivesASample_source :
    let cs := candidatesAt 10180 ports310 readings310 selector310
    let a := closeSelector 10180 ports310 readings310 selector310
    let b := closeSelector 10240 ports310 [good 0 1216, good 1 1069, good 2 3286] a
    cs.map (·.src) = [.port 0, .port 1, .port 2] ∧ (∃ d ∈ cs, topOf cs d ∧ d.src = .port 0) ∧
    a.source = some (.port 1) ∧ a.leads.get 0 = 2 ∧ a.leads.get 2 = 0 ∧ a.comparedWith = some (.port 0, 1211) ∧
    (∃ d ∈ cs, topOf (cs.filter fun e => decide (e.src ≠ .port 1)) d ∧ (20 : Int) < (1237 - d.stage : Int).natAbs) ∧
    b.source = some (.port 0) ∧ b.leads.get 0 = 0 ∧
    (closeSelector 10180 ports310 readings310 { selector310 with reselect := true }).source = some (.port 0) ∧
    (closeSelector 10180 ports310 readings310 { selector310 with source := none }).source = some (.port 0) ∧
    (closeSelector 10180 ports310 [good 1 1087] selector310).lastSample.map StageSample.quality = some .good ∧
    (closeSelector 10180 ports310 [good 1 1087] selector310).comparedWith = none ∧
    (closeSelector 10180 ports310 [good 1 1087] { selector310 with primed := false }).rise = 0 ∧
    (closeSelector 10180 ports310 [] selector310).source = none := by
  unfold topOf
  decide

/-- R42, R44, R45, R51, R52: the conversion of a RADAR reading, the ends of the stage range and of an entry's freshness, and
the held stage after a source, after HELD and after LOST. -/
theorem witness_EveryCloseGivesASample_candidates :
    let sel := { selector310 with observerEntry := some ⟨1200, 10180⟩ }
    (candidatesAt 10180 ports310 [good 2 3291] sel).map (fun c => (c.src, c.stage)) =
      [(.port 2, 1209), (.observer, 1200)] ∧
    (candidatesAt 11980 ports310 [] sel).length = 1 ∧ candidatesAt 11981 ports310 [] sel = [] ∧
    candidatesAt 10179 ports310 [] sel = [] ∧
    (closeSelector 10180 ports310 [good 0 30001, ⟨1, some 7, some .failed, false, false⟩, good 2 6500] sel).dispositions =
      #v[.outOfRange 30001, .failed, .candidate (-2000), .notRead] ∧
    (closeSelector 10180 ports310 [⟨0, none, none, false, false⟩, ⟨1, some 7, some .ok, true, true⟩] sel).dispositions =
      #v[.missed, .silent, .notRead, .notRead] ∧
    (closeSelector 10180 ports310 [good 0 1211] sel).heldStage = some 1211 ∧
    (closeSelector 10420 ports310 [] selector310).heldStage = some 1204 ∧
    (closeSelector 10421 ports310 [] selector310).heldStage = none ∧
    (closeSelector 10421 ports310 [] selector310).anchor = some 10120 := by decide

theorem witness_EveryCloseGivesASample :
    (closeSelector 10180 ports310 [good 0 1211, good 1 1087] selector310).lastSample.map StageSample.quality = some .suspect ∧
    (closeSelector 0 State.reset.ports [] .reset).lastSample.map StageSample.quality = some .lost := by decide

/-- A rating slot with the points and shifts of section 5.6, in a state. -/
def slot56 (st : SlotState) : RatingSlot :=
  { RatingSlot.reset with state := st, generation := some 2, effective := 100, allowance := 400, points := points56,
                          shifts := shifts56 }

/-- A store with slot 1 of section 5.6 in force. -/
def rated : State :=
  { State.reset with ratings := { State.reset.ratings with
      inForce := some 1, slots := putAt State.reset.ratings.slots 1 (slot56 .inForce) } }

/-- Slot 0 LOADING with some points. -/
def loading (l : List Point) : State :=
  { State.reset with ratings := { State.reset.ratings with
      nextGeneration := 65535
      slots := putAt State.reset.ratings.slots 0 { RatingSlot.reset with state := .loading, points := l } } }

/-- Section 4.9: rating B's typing error is found at index 2. -/
theorem test_discharge_that_falls :
    gives (.ratingFinish ⟨2, 2⟩ 0) (loading [⟨300, 0⟩, ⟨500, 2400⟩, ⟨900, 2300⟩, ⟨1500, 52000⟩])
      (fun t => t.host.buffer == some ⟨.checkFailed, 0x32, .checkDetail .qDecreasing 2⟩) = true := by decide

theorem witness_ARatingIsLoadedAndSealed :
    gives (.ratingBegin ⟨8, 8⟩ 0 900000 5000) .reset (fun t => (t.ratings.slots.get 0).state == .loading) = true ∧
    answers (.ratingBegin ⟨8, 8⟩ 0 900000 5001) .reset .badField = true ∧
    gives (.ratingPoints ⟨15, 15⟩ 0 [⟨500, 2400⟩, ⟨30000, 20000000⟩]) (loading [⟨-2000, 0⟩])
      (fun t => (t.ratings.slots.get 0).points == [⟨-2000, 0⟩, ⟨500, 2400⟩, ⟨30000, 20000000⟩]) = true ∧
    gives (.ratingFinish ⟨2, 2⟩ 0) (loading [⟨300, 0⟩, ⟨500, 0⟩]) (fun t => t.ratings.nextGeneration == 1 &&
      (t.ratings.slots.get 0).generation == some 65535) = true ∧
    answers (.ratingFinish ⟨2, 2⟩ 0) (loading [⟨300, 0⟩]) .checkFailed = true := by decide

/-- A gauging planned by a host. -/
def planned : Gauging := Gauging.created .fromStart .sixTenths 170 50

/-- A state with a gauging in slot 1. -/
def gauged (g : Gauging) (s : State) : State := { s with gaugings := putAt s.gaugings 1 (some g) }

theorem witness_RatingsAreReadAndRetired : (rated.ratings.slots.get 1).state = .inForce ∧
    answers (.ratingRead ⟨3, 3⟩ 1 47) rated .ok = true ∧ answers (.ratingRead ⟨3, 3⟩ 1 48) rated .badField = true ∧
    answers (.ratingRetire ⟨2, 2⟩ 0) rated .noRecord = true ∧
    gives (.ratingRetire ⟨2, 2⟩ 0) (loading []) (fun t => (t.ratings.slots.get 0).state == .empty && !t.attn) = true ∧
    answers (.ratingRetire ⟨2, 2⟩ 1) (gauged { planned with state := .suspended } rated) .wrongState = true ∧
    gives (.ratingRetire ⟨2, 2⟩ 1) rated
      (fun t => t.ratings.inForce == none && hasMember t.host.attention .ratingSwap) = true := by decide

/-- Twelve shifts, at 1 s to 12 s. -/
def fullShifts : State :=
  let r := { slot56 .inForce with shifts := (List.range 12).map fun i => ⟨i + 1, 0⟩ }
  { rated with ratings := { rated.ratings with slots := putAt rated.ratings.slots 1 r } }

/-- Section 5.6: SHIFT_PUT at 3,000 s is inserted at index 1 of three. -/
theorem test_shift_inserted : gives (.shiftPut ⟨8, 8⟩ 1 3000 5) rated
    (fun t => t.host.buffer == some ⟨.ok, 0x35, .shiftWritten .inserted 1 3⟩) = true := by decide

theorem witness_ShiftListsAreEdited : (rated.ratings.slots.get 1).state ≠ .empty ∧
    gives (.shiftPut ⟨8, 8⟩ 1 5000 2000) rated (fun t => (t.ratings.slots.get 1).shifts == [⟨1000, 10⟩, ⟨5000, 2000⟩]) = true ∧
    answers (.shiftPut ⟨8, 8⟩ 1 5000 2001) rated .badField = true ∧
    answers (.shiftPut ⟨8, 8⟩ 1 13 (-2000)) fullShifts .full = true ∧
    answers (.shiftPut ⟨8, 8⟩ 1 12 (-2000)) fullShifts .ok = true ∧
    answers (.shiftRemove ⟨6, 6⟩ 1 13) fullShifts .noRecord = true ∧
    gives (.shiftRemove ⟨6, 6⟩ 1 1000) rated (fun t => (t.ratings.slots.get 1).shifts == [⟨5000, -6⟩]) = true ∧
    answers (.shiftRead ⟨2, 2⟩ 1) rated .ok = true := by decide

theorem witness_TheEffectiveShiftStaysInRange : ShiftListLaw shifts56 ∧ ShiftListLaw [] ∧ effectiveShift [] 7 = 0 ∧
    effectiveShift shifts56 1000 = 10 ∧ effectiveShift shifts56 999 = 10 ∧ effectiveShift shifts56 5001 = -6 ∧
    effectiveShift shifts56 1001 = 10 ∧ effectiveShift shifts56 1125 = 9 ∧ effectiveShift shifts56 4999 = -6 ∧
    halfAway (-500) 1000 = -1 ∧ halfAway 499 1000 = 0 :=
  ⟨⟨by decide, by decide, by decide⟩, ⟨by decide, by decide, by decide⟩, by decide, by decide, by decide, by decide,
    by decide, by decide, by decide, by decide, by decide⟩

theorem witness_TheDischargeStaysInRange : PointListLaw points56 ∧ 2 ≤ points56.length ∧
    points56.Pairwise (fun a b => a.discharge ≤ b.discharge) ∧ dischargeAt points56 400 299 = ⟨0, true, false, false⟩ ∧
    dischargeAt points56 400 1500 = ⟨52000, false, false, false⟩ ∧ (dischargeAt points56 400 1900).clamped = false ∧
    (dischargeAt points56 400 1901).clamped = true ∧ dischargeAt points56 400 301 = ⟨12, false, false, false⟩ ∧
    dischargeAt points56 400 1501 = ⟨52063, false, true, false⟩ ∧
    dischargeAt [⟨0, 0⟩, ⟨1, 19999999⟩] 400 2 = ⟨20000000, false, true, true⟩ ∧ halfUp 3 2 = 2 :=
  ⟨⟨by decide, by decide, by decide⟩, by decide, by decide, by decide, by decide, by decide, by decide, by decide,
    by decide, by decide, by decide⟩

/-- A GOOD stage sample of 812 mm at 3,000 s. -/
def sample812 : StageSample := ⟨3000, some 812, .good, some (.port 0), some 210, false, false⟩

/-- Section 5.6: one flow sample. -/
theorem witness_FlowSamplesHaveADischarge : rated.ratings.inForce = some 1 ∧
    (flowOf rated.ratings sample812).discharge = some 11506 ∧ (flowOf rated.ratings sample812).effShift = some 2 ∧
    (flowOf rated.ratings sample812).slot = some 1 ∧ answers (.flowRead ⟨1, 1⟩) rated .ok = true := by decide

/-- Section 4.9: at 1,000,020 s rating B wins and A is superseded without coming into force; before 900,000 s none is
eligible. -/
theorem witness_TheEvaluationTakesTheLatestRating :
    let st : RatingStore := ⟨3, none, #v[{ slot56 .ready with generation := some 1, effective := 900000 },
      { slot56 .ready with effective := 990000 }, .reset]⟩
    evaluateStore 899999 st = st ∧
    evaluateStore 1000020 st = ⟨3, some 1, #v[
      { slot56 .superseded with generation := some 1, effective := 900000, supersededAt := some 1000020 },
      { slot56 .inForce with effective := 990000, inForceSince := some 1000020 }, .reset]⟩ := by decide

/-! ## Witnesses: watches -/

/-- Section 6.11's key 0 and key 2, in a state with a count and acked field. -/
def key0 (st : WatchState) (count : Nat) (acked : Bool) : Watch :=
  { Watch.installed .stage .above 2000 1900 2 3 2 0x01 false .hold with state := st, count := count, acked := acked }

/-- Key 2: DISCHARGE above 60,000 L/s, with the withdraw action. -/
def key2 (st : WatchState) (count : Nat) (acked : Bool) : Watch :=
  { Watch.installed .discharge .above 60000 50000 1 2 3 0x05 true .raise with state := st, count := count, acked := acked }

/-- A flow sample of a stage and a discharge. -/
def flow (h : Option Int) (q : Option Nat) : FlowSample :=
  { flowOf .reset { sample812 with stage := h } with discharge := q }

theorem witness_LowWatchesMove : Subject.stage.operand (flow (some 2000) none) = some 2000 ∧
    ((key0 .idle 0 false).take (flow (some 2000) none)).state = .pending ∧
    ((key0 .pending 1 false).take (flow (some 2000) none)).state = .active ∧
    ((key0 .pending 1 false).take (flow (some 1999) none)).state = .idle ∧
    ((key2 .idle 0 false).take (flow none (some 60000))).state = .active := by decide

/-- Section 6.11's recession on key 0 and key 2. -/
theorem witness_RaisedWatchesMove :
    ((key0 .active 0 false).take (flow (some 1901) none)).state = .active ∧
    (((key0 .active 0 false).take (flow (some 1900) none)).state = .easing ∧
      ((key0 .active 0 false).take (flow (some 1900) none)).count = 1) ∧
    ((key0 .easing 1 false).take (flow (some 1910) none)) =
      { key0 .easing 1 false with lastOperand := some 1910, lastClass := .neither } ∧
    ((key0 .easing 2 false).take (flow (some 1870) none)).state = .idle ∧
    ((key0 .easing 2 true).take (flow (some 2000) none)).state = .acked ∧
    ((key2 .easing 1 true).take (flow none (some 48500))).state = .idle ∧ (watchOf 0 0 2000 1900 61 0 4 1 1 0).isSome ∧
    WatchLaw (key0 .easing 2 true) :=
  ⟨by decide, by decide, by decide, by decide, by decide, by decide, by decide,
    ⟨by decide, by decide, by decide, by decide, by decide, by decide, by decide, by decide⟩⟩

theorem witness_LossOfTheOperand : Subject.stage.operand (flow none none) = none ∧
    ((key0 .pending 1 false).take (flow none none)).count = 1 ∧
    ((key2 .idle 0 false).take (flow none none)).state = .active ∧
    ((key2 .easing 1 false).take (flow none none)).state = .active ∧
    ((key2 .easing 1 true).take (flow none none)).count = 1 := by decide

/-- Section 6.11 after c4 and after the acknowledgement, with W2 silenceable. -/
def watching (w0 w2 : Watch) : WatchUnit :=
  { WatchUnit.reset with table := putAt (putAt WatchUnit.reset.table 0 (some w0)) 2 (some w2), silenceable := 0x04 }

theorem witness_LinesAndDemandFollowTheWatches :
    (watching (key0 .active 0 false) (key2 .active 0 false)).settled.lines = 0x05 ∧
    (watching (key0 .active 0 false) (key2 .acked 0 true)).settled.lines = 0x01 ∧
    (watching (key0 .active 0 false) (key2 .acked 0 true)).settled.demand = true ∧
    (watching (key0 .easing 2 false) (key2 .idle 0 false)).settled.demand = false := by decide

/-- A state with section 6.11's watches. -/
def watched (w0 w2 : Watch) (s : State) : State := { s with watches := (watching w0 w2).settled }

theorem witness_WatchVerbsWriteTheTable :
    gives (.watchPut ⟨18, 18⟩ 23 0 0 2000 1900 0 61 4 1 1 0) .reset
      (fun t => (t.watches.table.get 23).map Watch.clear == some 60 && hasMember t.host.attention (.watch 23)) = true ∧
    gives (.watchRemove ⟨2, 2⟩ 2) (watched (key0 .active 0 false) (key2 .active 0 false) .reset)
      (fun t => t.watches.lines == 0x01 && !t.watches.demand) = true ∧
    answers (.watchAck ⟨2, 2⟩ 0) (watched (key0 .pending 1 false) (key2 .active 0 false) .reset) .wrongState = true ∧
    answers (.watchAck ⟨2, 2⟩ 0) (watched (key0 .easing 1 true) (key2 .active 0 false) .reset) .ok = true ∧
    gives (.watchAck ⟨2, 2⟩ 2) (watched (key0 .active 0 false) (key2 .active 0 false) .reset)
      (fun t => t.watches.lines == 0x01 && t.watches.demand) = true ∧
    answers (.watchRead ⟨2, 2⟩ 23) .reset .noRecord = true ∧ answers (.watchRead ⟨2, 2⟩ 24) .reset .badField = true ∧
    answers (.watchPut ⟨18, 18⟩ 24 0 0 2000 1900 0 61 4 1 1 0) .reset .badField = true ∧
    watchOf 0 0 2000 2000 0 61 4 1 1 0 = none ∧
    answers (.watchPut ⟨18, 18⟩ 23 0 0 2000 2000 0 61 4 1 1 0) .reset .badField = true ∧
    gives (.lineConfig ⟨2, 2⟩ 0) (watched (key0 .idle 0 false) (key2 .acked 0 true) .reset)
      (fun t => t.watches.lines == 0x05) = true := by decide

/-! ## Witnesses: the cableway -/

/-- HOLD released and the carriage in a state and phase, awaiting a command. -/
def carriageIn (st : CarriageState) (ph : CarriagePhase) (cmd : WinchCommand) (s : State) : State :=
  { s with carriage := { s.carriage with
      state := st, phase := ph, hold := false, nextSerial := 5, awaited := some ⟨4, cmd⟩, outstanding := [⟨4, cmd⟩]
      distance := some 120000, hoist := some 2180, surfaceHoist := some 2180 } }

/-- A traverse whose move is held under HOLD. -/
def heldTraverse (s : State) : State :=
  { s with carriage := { s.carriage with
      state := .traversing, phase := .moving, hold := true, pendingMove := some (.traverseTo 7), onward := none } }

/-- A carriage at rest with nothing awaited. -/
def resting (st : CarriageState) (s : State) : State :=
  { s with carriage := { s.carriage with state := st, hold := false, distance := some 0, hoist := some 0 } }

/-- The meter counting, with its rating of section 8.7. -/
def counting (n : Nat) (s : State) : State :=
  { s with meter := { s.meter with rating := some meter87, exposing := true, taken := some 40, count := n,
                                   exposureLeft := some 1, pulses := 65535 } }

/-- A running gauging with no verticals. -/
def running : Gauging := { planned with state := .running, step := .sounding }

/-- The carriage at the meter's point, exposing, the gauging running; key 2 about to raise. -/
def atPoint : State := gauged { running with step := .exposing } (counting 30 (carriageIn .waitingMeter .none .halt .reset))

/-- Section 7.9 and 8.8: the withdraw rise. -/
theorem witness_AWithdrawRiseTurnsTheCarriageHome :
    let u := watching (key0 .active 0 false) (key2 .active 0 false)
    atPoint.watches.demand = false ∧ u.settled.demand = true ∧
    (putWatches u atPoint).carriage.state = .raising ∧ (putWatches u atPoint).carriage.target = some (.hoist 0) ∧
    (putWatches u atPoint).meter.exposing = false ∧ (putWatches u atPoint).meter.lastOutcome = .abandoned ∧
    ((putWatches u atPoint).gaugings.get 1).map Gauging.state = some .suspended ∧
    (putWatches u (carriageIn .raising .none (.hoistTo 0) .reset)).carriage.onward = some .home ∧
    (putWatches u (carriageIn .traversing .moving (.traverseTo 7) .reset)).carriage.awaited = some ⟨5, .halt⟩ ∧
    (putWatches u (carriageIn .traversing .moving (.traverseTo 7) .reset)).carriage.phase = .stopping ∧
    (putWatches u (carriageIn .traversing .stopping .halt .reset)).carriage =
      { (carriageIn .traversing .stopping .halt .reset).carriage with onward := some .home } ∧
    (putWatches u (heldTraverse .reset)).carriage.pendingMove = some (.hoistTo 0) ∧
    (putWatches u (heldTraverse .reset)).carriage.state = .raising ∧
    (putWatches u (resting .parked .reset)).carriage = (resting .parked .reset).carriage := by decide

theorem witness_TheMoveTimeoutIsClamped :
    gives (.cablewayConfig ⟨3, 3⟩ 4) .reset (fun t => t.carriage.moveTimeout == 5) = true ∧
    gives (.cablewayConfig ⟨3, 3⟩ 601) .reset (fun t => t.carriage.moveTimeout == 600) = true ∧
    gives .commandSent { State.reset with carriage := { Carriage.reset with wtx := [⟨0, .home⟩], awaited := some ⟨0, .home⟩ } }
      (fun t => t.carriage.moveLeft == some 300000 && t.carriage.wtxSent == [0x34, 0xCC]) = true := by decide

theorem witness_HomingStartsFromRest :
    gives (.cablewayHome ⟨1, 1⟩) .reset
      (fun t => t.carriage.pendingMove == some .home && t.carriage.state == .homing && t.carriage.wtx == []) = true ∧
    gives (.cablewayHome ⟨1, 1⟩) (resting .stopped .reset)
      (fun t => t.carriage.awaited == some ⟨0, .home⟩ && t.carriage.wtx == [⟨0, .home⟩]) = true ∧
    answers (.cablewayHome ⟨1, 1⟩) (carriageIn .stopped .none .halt .reset) .busy = true ∧
    answers (.cablewayHome ⟨1, 1⟩) (carriageIn .homing .none .home .reset) .wrongState = true ∧
    answers (.cablewayHome ⟨1, 1⟩) (carriageIn .waitingMeter .none .home .reset) .wrongState = true := by decide

theorem witness_EveryStopIsStopped :
    Carriage.reset.rx.clean (WinchReport.fault 9).chars ∧ (CarriageState.waitingMeter).working = true ∧ atPoint.gaugings.get 1 = some { running with step := .exposing } ∧
    gives (.cablewayHalt ⟨1, 1⟩) atPoint (fun t => t.carriage.stopCause == some .halted && !t.meter.exposing &&
      (t.gaugings.get 1).map Gauging.suspendCause == some (some .carriageStopped) &&
      t.carriage.wtx == [⟨5, .halt⟩]) = true ∧
    gives (.cablewayHalt ⟨1, 1⟩) (carriageIn .stopped .none .halt .reset) (fun t => t.carriage.wtx == []) = true ∧
    gives (.winchFault 9) (carriageIn .traversing .moving (.traverseTo 1) .reset)
      (fun t => t.carriage.faultCode == some 9 && t.carriage.outstanding == [] && t.carriage.wtx == []) = true ∧
    gives .moveTimerExpiry { State.reset with carriage := { (carriageIn .traversing .moving (.traverseTo 1) .reset).carriage
        with moveLeft := some 0 } }
      (fun t => t.carriage.stopCause == some .timeout && t.carriage.wtx == [⟨5, .halt⟩]) = true ∧
    gives .moveTimerExpiry { State.reset with carriage := { (carriageIn .lowering .stopping .halt .reset).carriage
        with moveLeft := some 0 } }
      (fun t => t.carriage.stopCause == some .timeout && t.carriage.wtx == []) = true := by decide

/-- R140, R166: each of the three stops suspends the running gauging and is written into a suspended one; a return that a
gauging waits for ends. -/
theorem witness_EveryStopIsStopped_gauging :
    let timed := fun s => { s with carriage := { s.carriage with moveLeft := some 0 } }
    let seen := fun c s => (((after c s).gaugings.get 1).map fun g => (g.stopCause, g.flags.winchFault, g.step))
    let put := fun g => gauged g (carriageIn .returning .none (.traverseTo 0) .reset)
    gives (.winchFault 9) atPoint (fun t => (t.gaugings.get 1).map Gauging.state == some .suspended &&
      (t.gaugings.get 1).bind Gauging.suspendCause == some .carriageStopped && !t.meter.exposing) = true ∧
    seen (.winchFault 9) atPoint = some (some .winchFault, true, .none) ∧
    seen .moveTimerExpiry (timed atPoint) = some (some .timeout, true, .none) ∧
    seen (.cablewayHalt ⟨1, 1⟩) atPoint = some (some .halted, false, .none) ∧
    seen (.winchFault 9) (put { planned with state := .suspended, step := .returning }) =
      some (some .winchFault, true, .none) ∧
    seen .moveTimerExpiry (timed (put { planned with state := .aborted, step := .returning })) =
      some (none, false, .none) := by decide

theorem witness_HoldAndContactsActOnTheCarriage :
    gives .holdAssertion (resting .parked .reset) (fun t => t.carriage.hold && t.attn) = true ∧
    gives .holdRelease (after (.cablewayHome ⟨1, 1⟩) .reset)
      (fun t => t.carriage.wtx == [⟨0, .home⟩] && t.carriage.pendingMove == none) = true ∧
    gives .surfaceContactAssertion (carriageIn .lowering .payingOut (.hoistTo 30000) .reset)
      (fun t => t.carriage.phase == .stopping && t.carriage.awaited == some ⟨5, .halt⟩) = true ∧
    gives .bedContactAssertion (carriageIn .lowering .payingOut (.hoistTo 30000) .reset)
      (fun t => t.carriage.stopCause == some .noSurface) = true ∧
    gives .bedContactAssertion (carriageIn .sounding .payingOut (.hoistTo 30000) .reset)
      (fun t => t.carriage.phase == .stopping && t.carriage.bedContact) = true ∧
    gives .surfaceContactAssertion (carriageIn .sounding .payingOut (.hoistTo 30000) .reset)
      (fun t => t.carriage == { (carriageIn .sounding .payingOut (.hoistTo 30000) .reset).carriage with
        surfaceContact := true }) = true ∧
    gives .bedContactAssertion (carriageIn .lowering .stopping .halt .reset)
      (fun t => t.carriage.state == .lowering && t.carriage.bedContact) = true ∧
    gives (.contactRelease .bed) .reset (fun t => !t.carriage.bedContact) = true := by decide

/-- A carriage whose assembler has taken some characters, the last of them still in the holding buffer. -/
def assembling (l : List Byte) (framing overrun : Bool) (s : State) : State :=
  let cs := l.map fun d => RxChar.mk d false framing
  { s with carriage := { s.carriage with rx := {
      Receiver.reset with taken := cs.dropLast, holding := cs.getLast?, overrun := overrun } } }

/-- The assembler takes the character held, and what the message so ended did is seen. -/
def ends (l : List Byte) (framing overrun : Bool) (s : State) : State := takeHeld (assembling l framing overrun s)

/-- A POSITION of 2,834 mm and 2,180 mm, written out from R189. -/
def position2834 : List Byte := [0x41, 0x12, 0x0B, 0x00, 0x84, 0x08, 0x16]

/-- R124, R189: the assembler's own characters end a message, are checked in order, and give its type and payload. -/
theorem witness_WinchMessagesAreTaken_assembler :
    (ends position2834 false false .reset).carriage = { Carriage.reset with distance := some 2834, hoist := some 2180 } ∧
    (ends [0x42, 0xBE] false false (carriageIn .homing .none .home .reset)).carriage.state = .parked ∧
    (ends [0x43, 7, 0xB6] false false (carriageIn .homing .none .home .reset)).carriage.faultCode = some 7 ∧
    (ends [0x42, 0xBF] true true .reset).carriage.linkError = some .framing ∧
    (ends [0x42, 0xBF] false true .reset).carriage.linkError = some .overrun ∧
    (ends [0x42, 0xBF] false false .reset).carriage.linkError = some .sum ∧
    (ends [0x31] false false .reset).carriage.linkError = some .type ∧
    (ends [0x41, 0xE1, 0x93, 0x04, 0, 0, 0x47] false false .reset).carriage.linkError = some .range ∧
    (ends [0x41, 0xE0, 0x93, 0x04, 0, 0, 0x48] false false .reset).carriage.distance = some 300000 ∧
    (ends [0x41, 0x12] false false .reset).carriage.rx.taken = [⟨0x41, false, false⟩, ⟨0x12, false, false⟩] ∧
    (WinchReport.position 2834 2180).chars = position2834 ∧ WinchReport.arrived.chars = [0x42, 0xBE] ∧
    (WinchReport.fault 7).chars = [0x43, 7, 0xB6] := by decide

/-- R124: a message command beside the characters held: it completes its own message, and what is not its own stays ahead
of it. -/
theorem witness_WinchMessagesAreTaken_behind :
    (assembling [0x41, 0x12] false false .reset).carriage.rx.clean (WinchReport.position 2834 2180).chars ∧
    (assembling [0x42] false false .reset).carriage.rx.clean WinchReport.arrived.chars ∧
    Carriage.reset.rx.clean WinchReport.arrived.chars ∧
    gives (.position 2834 2180) (assembling [0x41, 0x12] false false .reset)
      (fun t => t.carriage == { Carriage.reset with distance := some 2834, hoist := some 2180 }) = true ∧
    gives .arrived (assembling position2834 false false (carriageIn .homing .none .home .reset))
      (fun t => t.carriage.state == .parked && t.carriage.distance == some 0) = true ∧
    gives .arrived (takeHeld (assembling [0x41, 5] false false .reset)) (fun t => t.carriage.linkError == none &&
      t.carriage.rx.taken.map (·.data) == [0x41, 5, 0x42, 0xBE]) = true ∧
    gives (.winchLinkError ⟨[0x41, 0x12], false, false, true⟩) (assembling [0x41, 0x12] false false .reset)
      (fun t => t.carriage.linkError == some .gap && t.carriage.rx.assembled == []) = true := by decide

set_option maxRecDepth 4000 in
/-- R26, R124: a character of WRX that the assembler takes as another completes ends a fault, a superseded ARRIVED, a good
POSITION and a message of no type. -/
theorem witness_WinchMessagesAreTaken_completed :
    let next := Instr.characterCompletion .wrx ((samples170 0x42 true true).take 154) true
    let at_ := fun l s => after next (let a := assembling l false false s
      { a with carriage := { a.carriage with rx := { a.carriage.rx with mode := .receiving } } })
    (at_ [0x43, 7, 0xB6] .reset).carriage.faultCode = some 7 ∧
    (at_ [0x43, 7, 0xB6] .reset).carriage.rx.assembled = [⟨0x42, false, false⟩] ∧
    (at_ position2834 .reset).carriage.distance = some 2834 ∧ (at_ position2834 .reset).carriage.linkError = none ∧
    (at_ [0x44] .reset).carriage.linkError = some .type ∧
    (at_ [0x42, 0xBE] { State.reset with carriage := { Carriage.reset with outstanding := [⟨3, .hoistTo 30000⟩] } }).carriage.outstanding
      = [] := by decide

theorem witness_WinchMessagesAreTaken :
    gives (.position 300000 30000) .reset (fun t => t.carriage.distance == some 300000) = true ∧
    gives (.position 300001 30000) .reset (fun t => t.carriage.linkError == some .range) = true ∧
    gives (.position 300000 30001) .reset (fun t => t.carriage.distance == none) = true ∧
    gives .arrived .reset (fun t => t.carriage.linkError == some .strayAnswer) = true ∧
    gives .arrived { State.reset with carriage := { (carriageIn .lowering .stopping .halt .reset).carriage with
        outstanding := [⟨3, .hoistTo 30000⟩, ⟨4, .halt⟩] } } (fun t => t.carriage.outstanding == [⟨4, .halt⟩]) = true ∧
    linkErrorOf ⟨[0x42, 0xBE], false, false, false⟩ = none ∧ linkErrorOf ⟨[0x42, 0xBF], false, false, false⟩ = some .sum ∧
    linkErrorOf ⟨[0x31], false, false, false⟩ = some .type ∧
    gives (.winchLinkError ⟨[0x42, 0xBF], false, true, false⟩) .reset
      (fun t => t.carriage.linkError == some .overrun && !t.carriage.rx.overrun) = true ∧
    gives (.winchLinkError ⟨[0x41, 0xBF], false, false, true⟩) .reset
      (fun t => t.carriage.linkError == some .gap && t.carriage.rx.taken == []) = true ∧
    gives .linkQuietDrain (carriageIn .stopped .none .halt .reset) (fun t => t.carriage.outstanding == []) = true := by
  decide

/-- Section 7.9: the answers of a vertical. -/
theorem witness_TheAwaitedAnswerMovesTheCarriage :
    gives .arrived (carriageIn .returning .none (.traverseTo 0) .reset)
      (fun t => t.carriage.state == .parked && t.carriage.hoist == some 0) = true ∧
    gives .arrived (carriageIn .homing .none .home .reset) (fun t => t.carriage.distance == some 0) = true ∧
    gives .arrived (carriageIn .traversing .stopping .halt .reset) (fun t => t.carriage.onward == some .home) = true ∧
    gives .arrived (carriageIn .traversing .moving (.traverseTo 120000) .reset)
      (fun t => t.carriage.state == .lowering && t.carriage.awaited == some ⟨5, .hoistTo 30000⟩) = true ∧
    gives .arrived (carriageIn .lowering .stopping .halt .reset)
      (fun t => t.carriage.state == .sounding && t.carriage.surfaceHoist == some 2180) = true ∧
    gives .arrived (carriageIn .lowering .payingOut (.hoistTo 30000) .reset)
      (fun t => t.carriage.stopCause == some .noSurface) = true ∧
    gives .arrived (carriageIn .sounding .payingOut (.hoistTo 30000) .reset)
      (fun t => t.carriage.stopCause == some .noBed) = true ∧
    gives .arrived { State.reset with carriage := { (carriageIn .sounding .stopping .halt .reset).carriage with
      hoist := some 3020 } } (fun t => t.carriage.soundedDepth == some 840 && t.carriage.phase == .atBed) = true ∧
    gives .arrived { State.reset with carriage := { (carriageIn .raising .none (.hoistTo 0) .reset).carriage with
      onward := some (.distance 7) } } (fun t => t.carriage.target == some (.distance 7)) = true ∧
    gives .arrived { State.reset with carriage := { (carriageIn .raising .none (.hoistTo 0) .reset).carriage with
      onward := some .home } } (fun t => t.carriage.state == .returning) = true ∧
    gives .arrived (carriageIn .setting .none (.hoistTo 2834) .reset) (fun t => t.carriage.state == .waitingMeter) = true := by
  decide

/-! ## Witnesses: the meter and the gaugings -/

theorem witness_TheMeterCounts :
    gives .countEvent .reset (fun t => t.meter.pulses == 1 && t.meter.count == 0) = true ∧
    gives .countEvent (counting 65534 .reset) (fun t => t.meter.pulses == 0 && t.meter.count == 65535 && !t.meter.saturated) = true ∧
    gives .countEvent (counting 65535 .reset) (fun t => t.meter.count == 65535 && t.meter.saturated) = true ∧
    gives (.meterConfig ⟨13, 13⟩ 121 10 100 2000 100000 100 1) .reset (fun t => t.meter.exposureTime == 120) = true ∧
    gives (.meterConfig ⟨13, 13⟩ 19 1 0 1 0 0 1) .reset (fun t => t.meter.exposureTime == 20) = true ∧
    answers (.meterConfig ⟨13, 13⟩ 40 11 0 1 0 0 1) .reset .badField = true := by decide

/-- Section 8.7's lines of counts 40, 0 and 33. -/
theorem witness_AnExposureEndsInAPointResult :
    gives .exposureExpiry (counting 40 .reset) (fun t => t.meter.lastResult.map PointResult.velocity == some 255 &&
      t.meter.lastResult.map PointResult.rate == some 1000 && !t.meter.exposing) = true ∧
    gives .exposureExpiry (counting 0 .reset) (fun t => t.meter.lastResult.map PointResult.velocity == some 0 &&
      t.meter.lastResult.map PointResult.still == some true) = true ∧
    (pointResult meter87 33 45 false).velocity = 188 ∧ (pointResult meter87 33 45 false).segment = some 1 ∧
    (pointResult meter87 1600 20 false).velocity = 10000 := by decide

theorem witness_TheRevolutionRateIsHalfUp : revolutionRate 65535 1 20 = 3276750 ∧ revolutionRate 1 10 120 = 1 ∧
    revolutionRate 0 10 120 = 0 ∧ revolutionRate 65535 10 120 = 54613 := by decide

/-- A water's-edge vertical and an open one. -/
def edgeField (d : Word) : VerticalField := ⟨d, 4, 1, 700, 0, 1000⟩

/-- Section 9.10's gauging as the host appends it. -/
def verticals910 : List VerticalField := [edgeField 0, ⟨2000, 4, 0, 0, 0, 1000⟩, ⟨4000, 1, 0, 0, 0, 1000⟩, edgeField 8000]

/-- Slot 1 planned with section 9.10's verticals. -/
def ready910 : State :=
  after (.gaugingVerticals ⟨51, 51⟩ 1 verticals910) (gauged planned (clocked 1200 (resting .parked rated)))

theorem witness_GaugingsArePlannedReadAndRetired :
    gives (.gaugingPlan ⟨8, 8⟩ 1 0 0 2000 0) .reset (fun t => (t.gaugings.get 1).map Gauging.unsteadyLimit == some 1) = true ∧
    answers (.gaugingPlan ⟨8, 8⟩ 1 0 0 2001 0) .reset .badField = true ∧
    (ready910.gaugings.get 1).map (fun g => g.verticals.length) = some 4 ∧
    answers (.gaugingRead ⟨3, 3⟩ 1 39) ready910 .ok = true ∧ answers (.gaugingRead ⟨3, 3⟩ 1 40) ready910 .badField = true ∧
    answers (.gaugingRetire ⟨2, 2⟩ 1) (gauged running .reset) .wrongState = true ∧
    gives (.gaugingRetire ⟨2, 2⟩ 1) ready910 (fun t => t.gaugings.get 1 == none) = true ∧
    answers (.gaugingRetire ⟨2, 2⟩ 1) .reset .noRecord = true := by decide

/-- Slot 1 suspended with section 9.10's verticals. -/
def suspended910 : Option Gauging := (ready910.gaugings.get 1).map fun g => { g with state := .suspended }

theorem witness_AGaugingStartsResumesAndIsGivenUp :
    gives (.gaugingStart ⟨2, 2⟩ 1) ready910 (fun t => t.carriage.target == some (.distance 2000) &&
      (t.gaugings.get 1).bind Gauging.current == some 1 && hasMember t.host.attention (.gauging 1)) = true ∧
    answers (.gaugingStart ⟨2, 2⟩ 1) (resting .stopped ready910) .busy = true ∧
    answers (.gaugingStart ⟨2, 2⟩ 1) (watched (key0 .idle 0 false) (key2 .acked 0 true) ready910) .wrongState = true ∧
    gives (.gaugingResume ⟨2, 2⟩ 1) { ready910 with gaugings := putAt ready910.gaugings 1 suspended910 }
      (fun t => t.carriage.state == .traversing) = true ∧
    answers (.gaugingResume ⟨2, 2⟩ 1)
      (resting .returning { ready910 with gaugings := putAt ready910.gaugings 1 suspended910 }) .busy = true ∧
    answers (.gaugingResume ⟨2, 2⟩ 1) (watched (key0 .idle 0 false) (key2 .acked 0 true)
      { ready910 with gaugings := putAt ready910.gaugings 1 suspended910 }) .wrongState = true ∧
    answers (.gaugingAbort ⟨2, 2⟩ 1) ready910 .wrongState = true ∧
    gives (.gaugingAbort ⟨2, 2⟩ 1) atPoint (fun t => (t.gaugings.get 1).map Gauging.step == some .returning &&
      t.carriage.onward == some .home && !t.meter.exposing) = true := by decide

/-- R135: the gauging given up while the carriage is in a state. -/
def givenUp (f : State → State) : Carriage := (after (.gaugingAbort ⟨2, 2⟩ 1) (gauged running (f .reset))).carriage

/-- R158, R167: the first TODO vertical from either end, its distance under HOLD, the spans and the water's edges. -/
theorem witness_AGaugingStartsResumesAndIsGivenUp_setsOut :
    let from_ := fun d (f : Vertical → Vertical) =>
      let h := (ready910.gaugings.get 1).map fun g => { g with direction := d, verticals := g.verticals.map f }
      { ready910 with gaugings := putAt ready910.gaugings 1 h }
    let started := fun s => (after (.gaugingStart ⟨2, 2⟩ 1) s).gaugings.get 1
    (after (.gaugingStart ⟨2, 2⟩ 1) ready910).carriage.awaited = some ⟨0, .traverseTo 2000⟩ ∧
    ((started ready910).map fun g => g.verticals.map fun v => (v.span, v.status, v.depth)) =
      some [(2000, .done, some 0), (4000, .todo, none), (6000, .todo, none), (4000, .done, some 0)] ∧
    ((started { ready910 with lastFlow := some (flowOf .reset sample812) }).map fun g =>
      (g.stageAtStart, g.latest, g.worst)) = some (some 812, some (some 812, .good), some .good) ∧
    ((started (from_ .fromEnd id)).bind Gauging.current) = some 2 ∧
    ((started (from_ .fromStart fun v => { v with edge := false })).bind Gauging.current) = some 0 ∧
    (after (.gaugingStart ⟨2, 2⟩ 1)
      { ready910 with carriage := { ready910.carriage with hold := true } }).carriage.pendingMove =
      some (.traverseTo 2000) ∧
    (∀ v ∈ (suspended910.map Gauging.verticals).getD [], v.distance ≤ 300000) ∧
    (let h := suspended910.map fun g =>
      { g with verticals := g.verticals.map fun v => if v.distance = 4000 then v else { v with status := .done } }
     (after (.gaugingResume ⟨2, 2⟩ 1) { ready910 with gaugings := putAt ready910.gaugings 1 h }).carriage.target =
      some (.distance 4000)) := by decide

/-- R135, R168: the carriage from every state as the gauging is given up, and the visit discarded. -/
theorem witness_AGaugingStartsResumesAndIsGivenUp_returns :
    (givenUp (carriageIn .traversing .moving (.traverseTo 7))).awaited = some ⟨5, .halt⟩ ∧
    givenUp (carriageIn .traversing .stopping .halt) =
      { (carriageIn .traversing .stopping .halt .reset).carriage with onward := some .home } ∧
    (givenUp heldTraverse).pendingMove = some (.hoistTo 0) ∧
    (givenUp (carriageIn .lowering .payingOut (.hoistTo 30000))).awaited = some ⟨5, .hoistTo 0⟩ ∧
    (givenUp (carriageIn .sounding .stopping .halt)).state = .raising ∧
    (givenUp (carriageIn .setting .none (.hoistTo 30))).onward = some .home ∧
    (givenUp (carriageIn .raising .none (.hoistTo 0))).onward = some .home ∧
    givenUp (carriageIn .returning .none (.traverseTo 0)) = (carriageIn .returning .none (.traverseTo 0) .reset).carriage ∧
    givenUp (resting .stopped) = (resting .stopped .reset).carriage := by decide

/-- The running gauging of section 9.10 with vertical `i` current, in a step, its latest stage 388 mm. -/
def visiting910 (i : Nat) (st : Step) (f : Vertical → Vertical) : Gauging :=
  let g := (((after (.gaugingStart ⟨2, 2⟩ 1) ready910).gaugings.get 1).getD planned)
  { g with
    current := some i, point := if st = .sounding then none else some 0, step := st, latest := some (some 388, .good)
    stageAtStart := some 387, verticals := g.verticals.mapIdx fun j v => if j = i then f v else v }

/-- That gauging on a carriage that has its rating and meter. -/
def visited (g : Gauging) (c : State → State) : State :=
  let s := gauged g (c (clocked 2800 rated))
  { s with meter := { s.meter with rating := some meter87 } }

/-- The answer of the bed contact's HALT is awaited, the bed `d` below the surface. -/
def atBed (d : Nat) (s : State) : State :=
  let t := carriageIn .sounding .stopping .halt s
  { t with carriage := { t.carriage with hoist := some (2180 + d), bedHoist := some (2180 + d) } }

/-- R165, R168: the visit in progress is discarded as the gauging is given up; a finished vertical stands. -/
theorem witness_AGaugingStartsResumesAndIsGivenUp_discarded :
    let g := visiting910 1 .setting fun v => { v with depth := some 400, nearBed := true }
    let h := ((after (.gaugingAbort ⟨2, 2⟩ 1) (visited g (carriageIn .setting .none (.hoistTo 2580)))).gaugings.get 1).getD g
    h.state = .aborted ∧ h.current = none ∧ h.endTime = some 2800 ∧
    h.verticals.map (fun v => (v.status, v.depth, v.nearBed)) =
      [(.done, some 0, false), (.todo, none, false), (.todo, none, false), (.done, some 0, false)] := by decide

theorem runs_of_alone (s : State) (g : Gauging) (h : s.gaugings.get 1 = some g) (hr : g.state = .running)
    (hd : ∀ v ∈ g.verticals, v.distance ≤ 300000) (hn : ∀ i : Fin 4, i ≠ 1 → s.gaugings.get i = none) : runs s 1 g :=
  ⟨h, hr, hd, fun m x hx _ => by
    by_contra hne
    rw [hn m hne] at hx
    cases hx⟩

/-- Section 9.10: the soundings of vertical 1 at 400 mm and, in the variant, at 260 mm, and of vertical 2 at 600 mm. -/
theorem witness_TheAwaitedAnswerMovesTheCarriage_sounded :
    let g := visiting910 1 .sounding id
    runs (visited g (atBed 400)) 1 g ∧ (visited g (atBed 400)).watches.demand = false ∧ comesNext g 1 2 ∧
    gives .arrived (visited g (atBed 400)) (fun t => t.carriage.state == .setting &&
      t.carriage.awaited.map (·.command) == some (.hoistTo 2580) &&
      (t.gaugings.get 1).map Gauging.step == some .setting &&
      ((t.gaugings.get 1).bind fun h => h.verticals[1]?.map (·.nearBed)) == some true) = true ∧
    gives .arrived (visited g (atBed 260)) (fun t => t.carriage.onward == some (.distance 4000) &&
      ((t.gaugings.get 1).bind fun h => h.verticals[1]?.map (·.status)) == some .skipped &&
      (t.gaugings.get 1).map Gauging.stageSum == some 388 && (t.gaugings.get 1).bind Gauging.current == some 2) = true ∧
    gives .arrived (visited (visiting910 1 .sounding fun v => { v with edge := true }) (atBed 260)) (fun t =>
      ((t.gaugings.get 1).bind fun h => h.verticals[1]?.map (·.status)) == some .done) = true ∧
    gives .arrived (visited (visiting910 2 .sounding id) (atBed 600)) (fun t =>
      ((t.gaugings.get 1).bind fun h => h.verticals[2]?.map fun v => (v.method, v.downgraded, v.nearBed)) ==
        some (.sixTenths, true, false) &&
      t.carriage.awaited.map (·.command) == some (.hoistTo 2710)) = true :=
  ⟨runs_of_alone _ _ (by decide) (by decide) (by decide) (by decide), by decide,
    ⟨by decide, by decide, fun k a b => by omega⟩, by decide, by decide, by decide, by decide⟩

/-- R161: the exposure started at a point, and refused by a meter without a rating. -/
theorem witness_TheAwaitedAnswerMovesTheCarriage_pointSet :
    let g := visiting910 1 .setting fun v => { v with depth := some 400, nearBed := true }
    let s := visited g (carriageIn .setting .none (.hoistTo 2580))
    s.meter.exposing = false ∧ s.meter.rating.isSome = true ∧
    gives .arrived s (fun t => t.carriage.state == .waitingMeter && t.meter.exposing && t.meter.count == 0 &&
      t.meter.exposureLeft == some 40000 && (t.gaugings.get 1).map Gauging.step == some .exposing) = true ∧
    gives .arrived { s with meter := { s.meter with rating := none } } (fun t => t.carriage.onward == some .home &&
      (t.gaugings.get 1).bind Gauging.suspendCause == some .meterRefused &&
      ((t.gaugings.get 1).bind fun h => h.verticals[1]?.map fun v => (v.depth, v.nearBed)) == some (none, false)) = true := by
  decide

/-- R162, R163: the one point of vertical 1, the first of vertical 2's two, and the last point of the last vertical. -/
theorem witness_AnExposureEndsInAPointResult_gauging :
    let g1 := visiting910 1 .exposing fun v => { v with depth := some 400, nearBed := true }
    let g2 := visiting910 2 .exposing fun v => { v with depth := some 1000 }
    let g3 := { visiting910 2 .exposing fun v => { v with depth := some 1000, points := [(200, 304)] } with point := some 1 }
    let wait := fun n s => counting n (carriageIn .waitingMeter .none .halt s)
    runs (visited g1 (wait 48)) 1 g1 ∧ (visited g1 (wait 48)).carriage.state = .waitingMeter ∧
    gives .exposureExpiry (visited g1 (wait 48)) (fun t => t.carriage.onward == some (.distance 4000) &&
      ((t.gaugings.get 1).bind fun h => h.verticals[1]?.map fun v => (v.status, v.points, v.mean, v.flow)) ==
        some (.done, [(230, 305)], some 305, some 488000000) && (t.gaugings.get 1).map Gauging.stageCount == some 1 &&
      hasMember t.host.attention (.gauging 1)) = true ∧
    gives .exposureExpiry (visited g2 (wait 48)) (fun t => t.carriage.state == .setting &&
      (t.gaugings.get 1).bind Gauging.point == some 1 &&
      ((t.gaugings.get 1).bind fun h => h.verticals[2]?.map (·.points)) == some [(200, 305)]) = true ∧
    gives .exposureExpiry (visited g3 (wait 48)) (fun t => t.carriage.onward == some .home &&
      (t.gaugings.get 1).map Gauging.state == some .complete &&
      ((t.gaugings.get 1).bind fun h => h.verticals[2]?.bind (·.mean)) == some 305) = true :=
  ⟨runs_of_alone _ _ (by decide) (by decide) (by decide) (by decide), by decide, by decide, by decide, by decide⟩

/-- Section 9.10: the stage moves at most 50 mm from its start; at 51 mm the gauging is UNSTEADY. -/
theorem witness_AGaugingStartsResumesAndIsGivenUp_flow :
    let s := visited (visiting910 1 .sounding id) (atBed 400)
    let at_ := fun h q => (gaugingTakeFlow { sample812 with stage := h, quality := q } s).gaugings.get 1
    (at_ (some 437) .good).map (·.flags.unsteady) = some false ∧ (at_ (some 438) .good).map (·.flags.unsteady) = some true ∧
    (at_ (some 336) .suspect).map (fun g => (g.flags.unsteady, g.worst)) = some (true, some .suspect) ∧
    (at_ none .lost).map (fun g => (g.latest, g.worst)) = some (some (none, .lost), some .lost) ∧
    hasMember (gaugingTakeFlow { sample812 with stage := some 438 } s).host.attention (.gauging 1) = true := by decide

/-- Section 9.10's gauging as completed. -/
def complete910 : Gauging :=
  { planned with
    state := .complete, startTime := some 1200, endTime := some 2800
    results := ⟨some 1094, some 390, some 1152, some (-50), some 1, some 1, some 2⟩ }

/-- A finished vertical of section 9.10: its edge field, depth, mean velocity and partial. -/
def finished910 (edge : Bool) (depth mean flow span : Nat) : Vertical :=
  ⟨0, .sixTenths, .sixTenths, edge, 700, none, 1000, .done, some depth, [], if edge then none else some mean, span,
    if edge then none else some flow, false, false, false, false⟩

/-- Section 9.10's gauging at its last vertical. -/
def last910 : Gauging :=
  { planned with
    state := .running, step := .exposing, startTime := some 1200, stageSum := 1170, stageCount := 3
    verticals := [finished910 true 0 0 0 2000, finished910 false 400 300 480000000 4000,
      finished910 false 600 420 1008000000 4000, finished910 false 500 350 700000000 4000, finished910 true 0 0 0 2000] }

set_option maxRecDepth 4000 in
/-- Section 9.10's completion: the edges' velocities, the measured discharge and the comparison. -/
theorem witness_AGaugingIsAdopted_completion :
    let h := last910.completed 2800 rated.ratings
    h.verticals.map (·.mean) = [some 210, some 300, some 420, some 350, some 245] ∧
    h.verticals.map (·.flow) = [some 0, some 480000000, some 1008000000, some 700000000, some 0] ∧
    h.results.measured = some 1094 ∧ h.results.meanHeight = some 390 ∧ h.results.rated = some 1152 ∧
    h.results.slot = some 1 ∧ h.midpoint = 2000 ∧ h.state = .complete ∧ h.flags.extrapolated = false ∧
    (last910.completed 2800 State.reset.ratings).results.rated = none ∧
    ({ last910 with stageCount := 0 }.completed 2800 rated.ratings).results.meanHeight = none :=
  ⟨by decide, by decide, by decide, by decide, by decide, by decide, by decide, by decide, by decide, by decide, by decide⟩

/-- Section 9.10: the comparison of 1,094 L/s at a mean gauge height of 390 mm, and the adoption at index 1. -/
theorem witness_AGaugingIsAdopted :
    ratedRequest points56 400 shifts56 390 2000 = ⟨⟨1152, false, false, false⟩, 6⟩ ∧
    (comparison 1094 390 2000 1 (slot56 .inForce)).1 = complete910.results ∧
    gives (.gaugingAdopt ⟨2, 2⟩ 1 none) (gauged complete910 rated)
      (fun t => (t.ratings.slots.get 1).shifts == [⟨1000, 10⟩, ⟨2000, 1⟩, ⟨5000, -6⟩] &&
        (t.gaugings.get 1).map Gauging.adopted == some true) = true ∧
    gives (.gaugingAdopt ⟨4, 4⟩ 1 (some (-2000))) (gauged complete910 rated)
      (fun t => (t.ratings.slots.get 1).shifts == [⟨1000, 10⟩, ⟨2000, -2000⟩, ⟨5000, -6⟩]) = true ∧
    answers (.gaugingAdopt ⟨2, 2⟩ 1 none) (gauged { complete910 with adopted := true } rated) .wrongState = true := by decide

/-- Section 9.10's verticals 1 to 3: points, downgrade and means; a shallow one is skipped. -/
theorem test_visits :
    let v : Vertical := ⟨2000, .sixTenths, .sixTenths, false, 0, none, 1000, .todo, none, [], none, 4000, none, false, false, false, false⟩
    (v.sounded 170 400).pointDepths 170 = [230] ∧ (v.sounded 170 400).nearBed = true ∧
    (Vertical.sounded 170 600 { v with method := .twoPoint }).method = .sixTenths ∧
    (Vertical.sounded 170 600 { v with method := .twoPoint }).pointDepths 170 = [360] ∧
    meanVelocity .surface 850 [412] = 350 ∧ measuredDischarge
      [{ v with flow := some 480000000 }, { v with flow := some 1008000000 }, { v with flow := some 700000000 }] = 1094 := by decide

/-! ## Witnesses: the laws -/

/-- A command in front of a queue. -/
def queued (c : Instr) (s : State) : State := { s with pending := [c] }

theorem witness_EveryStepKeepsThePortLaws :
    PowerLaw (queued (.presenceLoss 1) mixed) ∧ PortLaw (queued (.presenceLoss 1) mixed) ∧
      LineLaw (queued (.portDisable ⟨2, 2⟩ 1) busy) ∧ AttentionLaw (queued .stray mixed) ∧
      (match step (queued (.presenceLoss 1) mixed) with
        | .next t => t.powerQueue == [] && t.pending == []
        | .fault _ | .refused _ => false) = true :=
  ⟨⟨by decide, by decide, by decide, by decide⟩, by unfold PortLaw; decide,
    ⟨by decide, by decide, by decide, by decide, by decide⟩, ⟨by decide, by decide⟩, by decide⟩

theorem witness_EveryStepKeepsTheWatchLaw :
    WatchUnitLaw (queued (.watchAck ⟨2, 2⟩ 0) (watched (key0 .active 0 false) (key0 .easing 2 true) .reset)) := by
  refine ⟨?_, by decide, by decide⟩
  have h : ∀ k : Fin 24, (watched (key0 .active 0 false) (key0 .easing 2 true) .reset).watches.table.get k = none ∨
      (watched (key0 .active 0 false) (key0 .easing 2 true) .reset).watches.table.get k = some (key0 .active 0 false) ∨
      (watched (key0 .active 0 false) (key0 .easing 2 true) .reset).watches.table.get k = some (key0 .easing 2 true) := by
    decide
  intro k w hw
  rcases h k with e | e | e <;> simp only [queued] at hw <;> rw [e] at hw <;> cases hw
  all_goals exact ⟨by decide, by decide, by decide, by decide, by decide, by decide, by decide, by decide⟩

theorem witness_EveryStepKeepsTheCarriageLaws :
    WithdrawLaw (queued .arrived (watched (key0 .idle 0 false) (key2 .acked 0 true)
      (carriageIn .traversing .stopping .halt .reset))) ∧
    HoldLaw (queued .holdRelease (after (.cablewayHome ⟨1, 1⟩) .reset)) := by
  refine ⟨⟨?_, ?_, by decide, by decide⟩, ⟨by decide, by decide⟩⟩
  · intro _ o h
    obtain rfl : o = ⟨4, .halt⟩ := (Option.some.inj h).symm
    trivial
  · intro _ m h
    cases h

theorem witness_EveryStepKeepsTheRatingLaw : RatingLaw (queued (.shiftPut ⟨8, 8⟩ 1 3000 5) rated) :=
  ⟨by unfold InForceLaw; decide, by unfold PointListLaw; decide, by unfold ShiftListLaw; decide⟩

theorem witness_EveryStepKeepsTheGaugingLaw : GaugingLaw (queued (.gaugingStart ⟨2, 2⟩ 1) (gauged running .reset)) := by
  have h : ∀ i : Fin 4, i ≠ 1 → (gauged running .reset).gaugings.get i = none := by decide
  have only : ∀ (i : Fin 4) (g : Gauging), (gauged running .reset).gaugings.get i = some g → i = 1 := by
    intro i g hg
    by_contra hne
    rw [h i hne] at hg
    cases hg
  intro i j g x hi hj _ _
  rw [only i g hi, only j x hj]

end Sys2Proof.Tests
end

section
/-! The move of a watch at one flow sample: what each branch of `Watch.take` gives, and R103, R106 and R107 from that. -/

namespace Sys2Proof.Machine

/-! ## The branches of a watch's move (R102, R103, R106, R107) -/

/-- R102: a watch takes a present operand. -/
theorem Watch.take_of_present {w : Watch} {x : FlowSample} {v : Int} (h : w.subject.operand x = some v) :
    w.take x = { w.move x.sample.time (some v) with lastOperand := some v, lastClass := w.classOf v } := by
  simp [Watch.take, h]

/-- R102: a watch takes an absent operand. -/
theorem Watch.take_of_absent {w : Watch} {x : FlowSample} (h : w.subject.operand x = none) :
    w.take x = { w.move x.sample.time none with lastOperand := none, lastClass := .absent } := by
  simp [Watch.take, h]

/-- R103: IDLE and PENDING share one move, since a watch in IDLE has count 0. -/
theorem Watch.move_present_of_low {w : Watch} (t : Nat) (v : Int) (hidle : w.state = .idle → w.count = 0)
    (hlow : w.state = .idle ∨ w.state = .pending) : w.move t (some v) = w.moveLow t w.count (w.classOf v) := by
  rcases hlow with hs | hs
  · simp only [Watch.move, hs, hidle hs]
  · simp only [Watch.move, hs]

/-- R103: a run is broken by an operand that is not beyond the threshold. -/
theorem Watch.moveLow_of_ne_beyond (w : Watch) (t n : Nat) {c : WatchClass} (h : c ≠ .beyond) :
    w.moveLow t n c = { w with state := .idle, count := 0 } := by
  cases c with
  | beyond => exact absurd rfl h
  | none | neither | quiet | absent => rfl

/-- R103: a run that is still short of the raise persistence. -/
theorem Watch.moveLow_beyond_of_lt {w : Watch} (t : Nat) {n : Nat} (h : n + 1 < w.raise) :
    w.moveLow t n .beyond = { w with state := .pending, count := n + 1 } :=
  if_neg (Nat.not_le.mpr h)

/-- R103: a run that completes the raise persistence. -/
theorem Watch.moveLow_beyond_of_le {w : Watch} (t : Nat) {n : Nat} (h : w.raise ≤ n + 1) :
    w.moveLow t n .beyond = w.raiseAt t :=
  if_pos h

/-- R106: a loss does not move a HOLD watch. -/
theorem Watch.move_absent_of_hold {w : Watch} (t : Nat) (h : w.onLoss = .hold) : w.move t none = w := by
  simp [Watch.move, h]

/-- R107: a loss moves a RAISE watch by its own table. -/
theorem Watch.move_absent_of_raise {w : Watch} (t : Nat) (h : w.onLoss = .raise) : w.move t none = w.moveLost t := by
  simp [Watch.move, h]

/-- R107: a loss raises a watch in IDLE or PENDING. -/
theorem Watch.moveLost_of_low {w : Watch} (t : Nat) (h : w.state = .idle ∨ w.state = .pending) :
    w.moveLost t = w.raiseAt t := by
  rcases h with hs | hs <;> simp only [Watch.moveLost, hs]

/-- R107: a loss brings an unacknowledged watch back from EASING. -/
theorem Watch.moveLost_of_easing_unacked {w : Watch} (t : Nat) (hs : w.state = .easing) (ha : w.acked = false) :
    w.moveLost t = { w with state := .active, count := 0 } := by
  simp [Watch.moveLost, hs, ha]

/-- R107: a loss leaves a watch that sounds already, or whose acknowledgement is kept. -/
theorem Watch.moveLost_of_kept {w : Watch} (t : Nat)
    (h : w.state = .active ∨ w.state = .acked ∨ (w.state = .easing ∧ w.acked = true)) : w.moveLost t = w := by
  rcases h with hs | hs | ⟨hs, ha⟩
  · simp only [Watch.moveLost, hs]
  · simp only [Watch.moveLost, hs]
  · simp only [Watch.moveLost, hs, ha, if_true]

/-! ## The statements -/

/-- Settles O36, from the one move that IDLE and PENDING share and the two ends of a BEYOND run. -/
theorem lowWatchesMove : Obligations.LowWatchesMove := by
  intro w x v hop hidle hlow _
  have htake : w.take x =
      { w.moveLow x.sample.time w.count (w.classOf v) with lastOperand := some v, lastClass := w.classOf v } := by
    rw [Watch.take_of_present hop, Watch.move_present_of_low _ v hidle hlow]
  refine ⟨fun hc => ?_, fun hc => ⟨fun hlt => ?_, fun hle => ?_⟩⟩
  · have hne : w.classOf v ≠ .beyond := by rcases hc with e | e <;> simp [e]
    rw [htake, Watch.moveLow_of_ne_beyond _ _ _ hne]
  · rw [htake, hc, Watch.moveLow_beyond_of_lt _ hlt]
  · rw [htake, hc, Watch.moveLow_beyond_of_le _ hle, Watch.raiseAt]

/-- Settles O37, from the rows of R107's table and the stillness of a HOLD watch. -/
theorem lossOfTheOperand : Obligations.LossOfTheOperand := by
  intro w x hop
  rw [Watch.take_of_absent hop]
  refine ⟨fun hhold => ?_, fun hraise => ?_⟩
  · rw [Watch.move_absent_of_hold _ hhold]
  · rw [Watch.move_absent_of_raise _ hraise]
    refine ⟨fun hlow => ?_, fun hs ha => ?_, fun hkept => ?_⟩
    · rw [Watch.moveLost_of_low _ hlow, Watch.raiseAt]
    · rw [Watch.moveLost_of_easing_unacked _ hs ha]
    · rw [Watch.moveLost_of_kept _ hkept]

end Sys2Proof.Machine
end

section
/-! The rate of a point: the half-up quotient by its remainder, the numerators it takes to 0, and R149 from both. -/

namespace Sys2Proof.Machine

/-! ## The half-up quotient (Conventions) -/

/-- The remainder that ties a half-up quotient to its numerator. -/
theorem two_mul_halfUp_add_mod (n d : Nat) : 2 * n + d = 2 * d * halfUp n d + (2 * n + d) % (2 * d) :=
  (Nat.div_add_mod (2 * n + d) (2 * d)).symm

/-- A half-up quotient is 0 exactly below one half; an exact half goes up to 1. -/
theorem halfUp_eq_zero_iff {d : Nat} (n : Nat) (hd : 0 < d) : halfUp n d = 0 ↔ 2 * n < d := by
  rw [halfUp, Nat.div_eq_zero_iff]
  omega

/-! ## The revolution rate (R149) -/

/-- R149's divisor for at most 10 pulses a revolution and 120 s: so small that a single pulse is at least half of it. -/
theorem revolutionDivisor_le {p taken : Nat} (hp : p ≤ 10) (ht : taken ≤ 120) : p * (taken * 1000) ≤ 2 * 1000000 :=
  calc p * (taken * 1000) ≤ 10 * (120 * 1000) := Nat.mul_le_mul hp (Nat.mul_le_mul_right 1000 ht)
    _ ≤ 2 * 1000000 := by decide

/-- R149: within the counter's ranges one pulse already gives a rate above 0. -/
theorem revolutionRate_eq_zero_iff {p taken : Nat} (count : Nat) (hd : 0 < p * (taken * 1000)) (hp : p ≤ 10)
    (ht : taken ≤ 120) : revolutionRate count p taken = 0 ↔ count = 0 := by
  have hle := revolutionDivisor_le hp ht
  rw [revolutionRate, halfUp_eq_zero_iff _ hd]
  omega

/-! ## The statement -/

/-- Settles O48: the quotient's own remainder, and a divisor too small for one pulse to be rounded down to 0. -/
theorem theRevolutionRateIsHalfUp : Obligations.TheRevolutionRateIsHalfUp := by
  intro count p taken hp hp10 ht ht120 _
  have hd : 0 < p * (taken * 1000) := Nat.mul_pos hp (by omega)
  have hd2 : 0 < 2 * (p * (taken * 1000)) := Nat.mul_pos Nat.two_pos hd
  exact ⟨⟨_, two_mul_halfUp_add_mod _ _, Nat.mod_lt _ hd2⟩, revolutionRate_eq_zero_iff count hd hp10 ht120⟩

end Sys2Proof.Machine
end

section
/-! The meaning of every command taken apart once: which of the four ways of taking a command it uses, and what it does
when it is taken. -/

namespace Sys2Proof.Machine

/-! ## The four ways of taking a command (R176, R177, R184) -/

/-- How the block takes a command: a verb's frame with its layout, its code and the owning block; another transaction of the
host; an event that RST_N holds off; or one that it does not. -/
inductive Meaning where
  | verb (f : FrameLen) (layout : Nat) (code : Byte) (block : State → State × Answer)
  | transaction (f : State → State)
  | event (f : State → State)
  | always (f : State → State)

/-- The outcome of a command taken so. -/
def Meaning.run : Meaning → State → Host.Outcome State Fault Refusal
  | .verb f layout code block => transacted (takeVerb f layout code block)
  | .transaction f => transacted f
  | .event f => live f
  | .always f => fun s => .next (f s)

/-- What the command does when it is taken; the placing of a verb's response stands apart. -/
def Meaning.effect : Meaning → State → State
  | .verb _ _ _ block => fun s => (block s).1
  | .transaction f | .event f | .always f => f

/-- R148: the end of an exposure. -/
def exposureExpires (s : State) : State :=
  match s.meter.result with
  | some x => takePointResult x { s with meter := s.meter.finish x }
  | none => s

/-- The meaning of each command. -/
def Meaning.of : Instr → Meaning
  | .setTime f time => .verb f 5 0x01 (setTime time)
  | .readTime f => .verb f 1 0x02 readTime
  | .reset f => .verb f 1 0x03 reset
  | .readAttention f => .verb f 1 0x04 readAttention
  | .portConfig f port kind address datum cls mode missLimit =>
    .verb f 11 0x10 (portConfig port kind address datum cls mode missLimit)
  | .portEnable f port => .verb f 2 0x11 (portEnable port)
  | .portDisable f port => .verb f 2 0x12 (portDisable port)
  | .portRead f port => .verb f 2 0x13 (portRead port)
  | .headZero f port => .verb f 2 0x14 (headZero port)
  | .busConfig f divisor period => .verb f 5 0x15 (busConfig divisor period)
  | .busRestart f => .verb f 1 0x16 busRestart
  | .stagePolicy f observerClass returnDelay disagreement holdLimit filterShift =>
    .verb f 7 0x20 (stagePolicy observerClass returnDelay disagreement holdLimit filterShift)
  | .stageRead f => .verb f 1 0x21 stageRead
  | .observerEntry f stage entryTime => .verb f 7 0x22 (observerEntry stage entryTime)
  | .reselect f => .verb f 1 0x23 reselect
  | .ratingBegin f slot effective allowance => .verb f 8 0x30 (ratingBegin slot effective allowance)
  | .ratingPoints f slot points => .verb f (3 + 6 * points.length) 0x31 (ratingPoints slot points)
  | .ratingFinish f slot => .verb f 2 0x32 (ratingFinish slot)
  | .ratingRead f slot firstPoint => .verb f 3 0x33 (ratingRead slot firstPoint)
  | .ratingRetire f slot => .verb f 2 0x34 (ratingRetire slot)
  | .shiftPut f slot time shift => .verb f 8 0x35 (shiftPut slot time shift)
  | .shiftRemove f slot time => .verb f 6 0x36 (shiftRemove slot time)
  | .shiftRead f slot => .verb f 2 0x37 (shiftRead slot)
  | .flowRead f => .verb f 1 0x40 flowRead
  | .watchPut f key subject direction threshold release raise clear level lines withdraw onLoss =>
    .verb f 18 0x41 (watchPut key subject direction threshold release raise clear level lines withdraw onLoss)
  | .watchRead f key => .verb f 2 0x42 (watchRead key)
  | .watchAck f key => .verb f 2 0x43 (watchAck key)
  | .watchRemove f key => .verb f 2 0x44 (watchRemove key)
  | .lineConfig f silenceable => .verb f 2 0x45 (lineConfig silenceable)
  | .cablewayConfig f moveTimeout => .verb f 3 0x50 (cablewayConfig moveTimeout)
  | .cablewayHome f => .verb f 1 0x51 cablewayHome
  | .cablewayHalt f => .verb f 1 0x52 cablewayHalt
  | .cablewayRead f => .verb f 1 0x53 cablewayRead
  | .meterConfig f exposure p a1 b1 nb a2 b2 => .verb f 13 0x54 (meterConfig exposure p a1 b1 nb a2 b2)
  | .gaugingPlan f slot direction method offset unsteady =>
    .verb f 8 0x60 (gaugingPlan slot direction method offset unsteady)
  | .gaugingVerticals f slot verticals => .verb f (3 + 12 * verticals.length) 0x61 (gaugingVerticals slot verticals)
  | .gaugingStart f slot => .verb f 2 0x62 (gaugingStart slot)
  | .gaugingResume f slot => .verb f 2 0x63 (gaugingResume slot)
  | .gaugingAbort f slot => .verb f 2 0x64 (gaugingAbort slot)
  | .gaugingRead f slot firstVertical => .verb f 3 0x65 (gaugingRead slot firstVertical)
  | .gaugingAdopt f slot shift => .verb f (adoptLength shift) 0x66 (gaugingAdopt slot shift)
  | .gaugingRetire f slot => .verb f 2 0x67 (gaugingRetire slot)
  | .unknownVerb f code => .transaction (unknownFrame f code)
  | .readTransaction clocked => .transaction (readEnds clocked)
  | .powerOnReset => .always holdInReset
  | .resetRelease => .always leaveReset
  | .presenceArrival p => .event (presenceArrives p)
  | .presenceLoss p => .event (presenceLost p)
  | .latchClosing p => .event (latchCloses p)
  | .latchOpening p => .event (latchOpens p)
  | .buttonPress p => .event (buttonPressed p)
  | .statusAssertion p => .event (statusAsserts p)
  | .statusRelease p => .event (statusReleases p)
  | .powerGood p => .event (powerComesGood p)
  | .pgTimeout p => .event (powerTimesOut p)
  | .fixedDelayEnd p => .event (delayEnds p)
  | .holdOffExpiry p => .event (holdOffExpires p)
  | .lampBlink p => .event (lampBlinks p)
  | .powerSequencerTake => .event sequencerTake
  | .stageCycleExpiry => .event cycleExpires
  | .lineGrant => .event serveLine
  | .pendingDivisorApply => .event (withBus Bus.applyPending)
  | .masterFrameBegin => .event frameBegins
  | .masterFrameEnd => .event (withBus Bus.frameEnded)
  | .replyWindowClose => .event windowCloses
  | .replyIdleEnd => .event replyIdles
  | .replyLimit => .event replyOverruns
  | .lineIdleRelease => .event (withBus fun b => { b with awaitIdle := false })
  | .stray => .event strayComes
  | .breakEnd => .event (withBus Bus.breakEnded)
  | .recoveryEnd => .event recoveryEnds
  | .holdAssertion => .event holdAsserts
  | .holdRelease => .event holdReleases
  | .surfaceContactAssertion => .event (fun s => putCarriage s.carriage.touchSurface s)
  | .bedContactAssertion => .event touchBed
  | .contactRelease c => .event (fun s => { s with carriage := s.carriage.release c })
  | .position distance hoist => .event (winchSends (WinchReport.position distance hoist).message)
  | .arrived => .event (winchSends WinchReport.arrived.message)
  | .winchFault cause => .event (winchSends (WinchReport.fault cause).message)
  | .winchLinkError m => .event (winchSends m)
  | .commandSent => .event (fun s => { s with carriage := s.carriage.sent })
  | .moveTimerExpiry => .event moveTimesOut
  | .linkQuietDrain => .event (fun s => { s with carriage := s.carriage.quiet })
  | .countEvent => .event (fun s => { s with meter := s.meter.countEvent })
  | .meterInputFall => .event (fun s => { s with meter := { s.meter with inputHigh := false } })
  | .exposureExpiry => .event exposureExpires
  | .stationTimeRise => .event timeRises
  | .startBitAccepted => .event (withBus Bus.startBit)
  | .characterCompletion line samples heldTaken => .event (characterCompletes line samples heldTaken)
  | .transactionBegin first => .always (transactionBegins first)

/-- The dispatch runs the meaning of its command. -/
theorem exec_eq_run (c : Instr) (s : State) : exec c s = (Meaning.of c).run s := by
  cases c <;> rfl

/-- What a command does to the block when it is taken. -/
def effectOf (c : Instr) (s : State) : State := (Meaning.of c).effect s

/-- The state with the rest of a transaction settled: the host's record may change but for its attention summary. -/
def Answered (u t : State) : Prop := ∃ h : CommandPort, t = { u with host := h } ∧ h.attention = u.host.attention

theorem takeVerb_answered (f : FrameLen) (layout : Nat) (code : Byte) (block : State → State × Answer) (s : State) :
    Answered s (takeVerb f layout code block s) ∨ Answered (block s).1 (takeVerb f layout code block s) := by
  simp only [takeVerb]
  split
  · exact .inl ⟨_, rfl, rfl⟩
  · exact .inr ⟨_, rfl, rfl⟩

/-- A command leaves the block as it was or does its effect, but for the host's record of the transaction. -/
theorem exec_answered {c : Instr} {s t : State} (h : exec c s = .next t) :
    Answered s t ∨ Answered (effectOf c s) t := by
  rw [exec_eq_run] at h
  simp only [effectOf]
  cases hm : Meaning.of c with
  | verb f layout code block =>
    rw [hm] at h
    exact transacted_elim (fun t => Answered s t ∨ Answered (block s).1 t) h (.inl ⟨_, rfl, rfl⟩)
      (takeVerb_answered ..)
  | transaction f =>
    rw [hm] at h
    exact transacted_elim (fun t => Answered s t ∨ Answered (f s) t) h (.inl ⟨_, rfl, rfl⟩) (.inr ⟨_, rfl, rfl⟩)
  | event f =>
    rw [hm] at h
    exact live_elim (fun t => Answered s t ∨ Answered (f s) t) h (.inl ⟨_, rfl, rfl⟩) (.inr ⟨_, rfl, rfl⟩)
  | always f =>
    rw [hm] at h
    simp only [Meaning.run, Host.Outcome.next.injEq] at h
    exact .inr ⟨_, h.symm, rfl⟩

end Sys2Proof.Machine
end

section
/-! Which components a command can rewrite: one class per group of blocks, and what an operation of the ports and of the
line does to the blocks behind them, which is to hand the selector rounds that close. -/

namespace Sys2Proof.Machine

/-! ## Operations of the ports and the line -/

/-- `t` comes from `s` by writes of the ports, the power queue, the bus and the host's record that only add attention
members, and by rounds handed to the selector. -/
inductive LineRun : State → State → Prop where
  | own {s t : State} (v : Vector Port 4) (q : List (Fin 4)) (b : Bus) (h : CommandPort)
      (e : t = { s with ports := v, powerQueue := q, bus := b, host := h }) (m : Marked s t) : LineRun s t
  | close (recs : List ReadingRecord) (s : State) : LineRun s (handRound recs s)
  | trans {s t u : State} (h : LineRun s t) (k : LineRun t u) : LineRun s u

/-- What the writes of the ports and the line keep, and a closing round keeps, an operation of the line keeps. -/
theorem LineRun.elim {P : State → Prop} {s t : State} (h : LineRun s t)
    (ho : ∀ s v q b h, P s → P { s with ports := v, powerQueue := q, bus := b, host := h })
    (hc : ∀ recs s, P s → P (handRound recs s)) (hs : P s) : P t := by
  induction h with
  | own v q b h e _ => exact e ▸ ho _ v q b h hs
  | close recs s => exact hc recs s hs
  | trans _ _ ih1 ih2 => exact ih2 (ih1 hs)

/-- An operation of the line only adds attention members. -/
theorem LineRun.marked {s t : State} (h : LineRun s t) : Marked s t := by
  induction h with
  | own _ _ _ _ _ m => exact m
  | close recs s => exact handRound_marked recs s
  | trans _ _ ih1 ih2 => exact ih1.trans ih2

theorem LineRun.refl (s : State) : LineRun s s := .own s.ports s.powerQueue s.bus s.host rfl (.refl s)

/-- An operation that keeps every block behind the line is a write of the ports and the line. -/
theorem LineRun.of_kept {s t : State} (h1 : t.inReset = s.inReset) (h2 : t.selector = s.selector)
    (h3 : t.ratings = s.ratings) (h4 : t.lastFlow = s.lastFlow) (h5 : t.watches = s.watches)
    (h6 : t.carriage = s.carriage) (h7 : t.meter = s.meter) (h8 : t.gaugings = s.gaugings)
    (h9 : t.freeDraws = s.freeDraws) (h10 : t.pending = s.pending) (m : Marked s t) : LineRun s t :=
  .own t.ports t.powerQueue t.bus t.host (State.eq_of_fields h1 rfl rfl rfl rfl h2 h3 h4 h5 h6 h7 h8 h9 h10) m

theorem addMember_lineRun (m : Member) (s : State) : LineRun s (addMember m s) := .own _ _ _ _ rfl (addMember_marked ..)

theorem withBus_lineRun (f : Bus → Bus) (s : State) : LineRun s (withBus f s) := .own _ _ _ _ rfl (withBus_marked ..)

theorem putStatus_lineRun (p : Fin 4) (f : ReplyStatus → ReplyStatus) (s : State) : LineRun s (putStatus p f s) :=
  .own _ _ _ _ rfl (putStatus_marked ..)

theorem zeroEnds_lineRun (p : Fin 4) (o : ZeroOutcome) (s : State) : LineRun s (zeroEnds p o s) := .own _ _ _ _ rfl (zeroEnds_marked ..)

theorem storePort_lineRun (p : Fin 4) (r : Port) (s : State) : LineRun s (storePort p r s) := by
  refine .of_kept ?_ ?_ ?_ ?_ ?_ ?_ ?_ ?_ ?_ ?_ (storePort_marked ..) <;> simp

theorem sequencerTake_lineRun (s : State) : LineRun s (sequencerTake s) := by
  refine .of_kept ?_ ?_ ?_ ?_ ?_ ?_ ?_ ?_ ?_ ?_ (sequencerTake_marked ..) <;> simp

theorem leaveQueue_lineRun (p : Fin 4) (o n : PortState) (s : State) : LineRun s (leaveQueue p o n s) := by
  refine .of_kept ?_ ?_ ?_ ?_ ?_ ?_ ?_ ?_ ?_ ?_ (leaveQueue_marked ..) <;> simp

theorem offerPower_lineRun (p : Fin 4) (r : Port) (s : State) : LineRun s (offerPower p r s) := by
  refine .of_kept ?_ ?_ ?_ ?_ ?_ ?_ ?_ ?_ ?_ ?_ (offerPower_marked ..) <;> simp

theorem sendFrame_lineRun (p : Fin 4) (v : Byte) (s : State) : LineRun s (sendFrame p v s) := by
  simp only [sendFrame]
  exact withBus_lineRun ..

theorem grantFrom_lineRun (l : List LineUser) (s : State) : LineRun s (grantFrom l s) := by
  induction l generalizing s with
  | nil => exact withBus_lineRun ..
  | cons u l ih =>
    cases u with
    | round =>
      simp only [grantFrom]
      split
      · exact (LineRun.close [] s).trans (ih _)
      · exact withBus_lineRun ..
    | ident p => exact withBus_lineRun ..
    | zero p => exact withBus_lineRun ..

theorem serveLine_lineRun (s : State) : LineRun s (serveLine s) := by
  simp only [serveLine]
  split
  · exact grantFrom_lineRun ..
  · exact .refl s

theorem placeUser_lineRun (u : LineUser) (s : State) : LineRun s (placeUser u s) := by
  simp only [placeUser]
  split
  · exact grantFrom_lineRun ..
  · exact withBus_lineRun ..

theorem endUser_lineRun (s : State) : LineRun s (endUser s) := (withBus_lineRun ..).trans (serveLine_lineRun _)

theorem closeRound_lineRun (s : State) : LineRun s (closeRound s) :=
  ((withBus_lineRun Bus.freed s).trans (.close ..)).trans (serveLine_lineRun _)

theorem advanceRound_lineRun (l : List (Fin 4)) (s : State) : LineRun s (advanceRound l s) := by
  simp only [advanceRound]
  split
  · exact closeRound_lineRun s
  · exact withBus_lineRun ..

theorem dropUser_lineRun (u : LineUser) (s : State) : LineRun s (dropUser u s) := by
  simp only [dropUser]
  split
  · exact endUser_lineRun s
  · exact withBus_lineRun ..

theorem leaveIdent_lineRun (p : Fin 4) (o n : PortState) (s : State) : LineRun s (leaveIdent p o n s) := by
  simp only [leaveIdent]
  split
  · exact dropUser_lineRun ..
  · exact .refl s

theorem leaveZero_lineRun (p : Fin 4) (o n : PortState) (s : State) : LineRun s (leaveZero p o n s) := by
  simp only [leaveZero]
  split
  · exact ((zeroEnds_lineRun ..).trans (withBus_lineRun ..)).trans (dropUser_lineRun ..)
  · exact .refl s

theorem leavePoll_lineRun (p : Fin 4) (o n : PortState) (s : State) : LineRun s (leavePoll p o n s) := by
  simp only [leavePoll]
  split
  · exact (withBus_lineRun (Bus.cutOff .round) s).trans (advanceRound_lineRun ..)
  · exact .refl s

theorem movePort_lineRun (p : Fin 4) (r : Port) (s : State) : LineRun s (movePort p r s) :=
  (((((storePort_lineRun p r s).trans (leaveQueue_lineRun ..)).trans (leaveIdent_lineRun ..)).trans
    (leaveZero_lineRun ..)).trans (leavePoll_lineRun ..)).trans (sequencerTake_lineRun _)

theorem beginIdentify_lineRun (p : Fin 4) (s : State) : LineRun s (beginIdentify p s) :=
  ((putStatus_lineRun p _ s).trans (movePort_lineRun ..)).trans (placeUser_lineRun ..)

theorem pollNext_lineRun (s : State) : LineRun s (pollNext s) := by
  simp only [pollNext]
  split
  · exact closeRound_lineRun s
  · exact (withBus_lineRun ..).trans (sendFrame_lineRun ..)

theorem frameBegins_lineRun (s : State) : LineRun s (frameBegins s) := by
  simp only [frameBegins]
  (repeat' split) <;> first | exact .refl s | exact pollNext_lineRun s | exact sendFrame_lineRun ..

theorem pollEnds_lineRun (e : ReplyEnd) (s : State) : LineRun s (pollEnds e s) := by
  simp only [pollEnds]
  split
  · exact closeRound_lineRun s
  · exact (((withBus_lineRun ..).trans (putStatus_lineRun ..)).trans (storePort_lineRun ..)).trans (advanceRound_lineRun ..)

theorem takeAttempt_lineRun (p : Fin 4) (e : ReplyEnd) (s : State) : LineRun s (takeAttempt p e s) := by
  simp only [takeAttempt]
  split
  · split
    · exact (storePort_lineRun ..).trans (placeUser_lineRun ..)
    · exact storePort_lineRun ..
  · exact .refl s

theorem exchangeEnds_lineRun (e : ReplyEnd) (s : State) : LineRun s (exchangeEnds e s) := by
  have hm : LineRun s (match e with
      | .garbled _ => addMember .busError s
      | .good _ | .noReply => s) := by
    cases e with
    | garbled c => exact addMember_lineRun ..
    | good chars => exact .refl s
    | noReply => exact .refl s
  simp only [exchangeEnds]
  split
  · exact hm.trans (pollEnds_lineRun ..)
  · exact hm.trans ((((withBus_lineRun ..).trans (putStatus_lineRun ..)).trans (takeAttempt_lineRun ..)).trans
      (serveLine_lineRun _))
  · exact hm.trans (((putStatus_lineRun ..).trans (zeroEnds_lineRun ..)).trans (endUser_lineRun _))
  · exact .refl s
  · exact .refl s
  · exact .refl s

theorem foldl_lineRun {α : Type} (f : State → α → State) (h : ∀ s a, LineRun s (f s a)) (l : List α) (s : State) :
    LineRun s (l.foldl f s) := by
  induction l generalizing s with
  | nil => exact .refl s
  | cons a l ih => exact (h s a).trans (ih _)

theorem reidentify_lineRun (p : Fin 4) (s : State) : LineRun s (reidentify p s) := by
  simp only [reidentify]
  split
  · exact ((putStatus_lineRun p ReplyStatus.forNewHead s).trans (storePort_lineRun ..)).trans (placeUser_lineRun ..)
  · exact ((putStatus_lineRun p ReplyStatus.forNewHead s).trans (storePort_lineRun ..)).trans (placeUser_lineRun ..)
  · exact (storePort_lineRun ..).trans (placeUser_lineRun ..)
  all_goals exact .refl s

theorem cancelZeros_lineRun (s : State) : LineRun s (cancelZeros s) := by
  refine foldl_lineRun _ (fun t p => ?_) _ s
  split
  · exact zeroEnds_lineRun ..
  · exact .refl t

theorem breakBegins_lineRun (s : State) : LineRun s (breakBegins s) :=
  ((cancelZeros_lineRun s).trans (withBus_lineRun ..)).trans (foldl_lineRun _ (fun t p => reidentify_lineRun p t) _ _)

/-! ## The classes of commands -/

/-- What a command can rewrite beside the host's record. -/
inductive Touch where
  | host | line | selector | ratings | watches | cableway | adoption | reset
  deriving DecidableEq

/-- The class of each command. -/
def Touch.of : Instr → Touch
  | .setTime .. | .readTime .. | .readAttention .. | .unknownVerb .. | .readTransaction .. => .host
  | .stationTimeRise | .transactionBegin .. => .host
  | .reset .. | .powerOnReset | .resetRelease => .reset
  | .portConfig .. | .portEnable .. | .portDisable .. | .portRead .. | .headZero .. | .busConfig .. => .line
  | .busRestart .. | .presenceArrival .. | .presenceLoss .. | .latchClosing .. | .latchOpening .. => .line
  | .buttonPress .. | .statusAssertion .. | .statusRelease .. | .powerGood .. | .pgTimeout .. => .line
  | .fixedDelayEnd .. | .holdOffExpiry .. | .lampBlink .. | .powerSequencerTake | .stageCycleExpiry => .line
  | .lineGrant | .pendingDivisorApply | .masterFrameBegin | .masterFrameEnd | .replyWindowClose => .line
  | .replyIdleEnd | .replyLimit | .lineIdleRelease | .stray | .breakEnd | .recoveryEnd | .startBitAccepted => .line
  | .characterCompletion .sbus .. => .line
  | .stagePolicy .. | .stageRead .. | .observerEntry .. | .reselect .. => .selector
  | .ratingBegin .. | .ratingPoints .. | .ratingFinish .. | .ratingRead .. | .ratingRetire .. => .ratings
  | .shiftPut .. | .shiftRemove .. | .shiftRead .. | .flowRead .. => .ratings
  | .watchPut .. | .watchRead .. | .watchAck .. | .watchRemove .. | .lineConfig .. => .watches
  | .cablewayConfig .. | .cablewayHome .. | .cablewayHalt .. | .cablewayRead .. | .meterConfig .. => .cableway
  | .gaugingPlan .. | .gaugingVerticals .. | .gaugingStart .. | .gaugingResume .. | .gaugingAbort .. => .cableway
  | .gaugingRead .. | .gaugingRetire .. | .holdAssertion | .holdRelease | .surfaceContactAssertion => .cableway
  | .bedContactAssertion | .contactRelease .. | .position .. | .arrived | .winchFault .. => .cableway
  | .winchLinkError .. | .commandSent | .moveTimerExpiry | .linkQuietDrain | .countEvent => .cableway
  | .meterInputFall | .exposureExpiry | .characterCompletion .wrx .. => .cableway
  | .gaugingAdopt .. => .adoption

/-- What a command of a class leaves of the block: every component that the class does not name is as it was. -/
def Touch.Frame : Touch → State → State → Prop
  | .host, s, t => ∃ h d, t = { s with host := h, freeDraws := d }
  | .line, s, t => LineRun s t
  | .selector, s, t => ∃ x, t = { s with selector := x }
  | .ratings, s, t => ∃ r h, t = { s with ratings := r, host := h }
  | .watches, s, t => ∃ wu ca me ga h, t = { s with watches := wu, carriage := ca, meter := me, gaugings := ga, host := h }
  | .cableway, s, t => LinkOnly s t
  | .adoption, s, t => ∃ r ga h, t = { s with ratings := r, gaugings := ga, host := h }
  | .reset, _, _ => True

/-! ## What each class leaves as it was -/

theorem unknownFrame_frame (f : FrameLen) (code : Option Byte) (s : State) :
    Touch.Frame .host s (unknownFrame f code s) := by
  cases code <;> (simp only [unknownFrame]; split <;> exact ⟨_, _, rfl⟩)

theorem enablePort_lineRun (p : Fin 4) (s : State) : LineRun s (enablePort p s) := by
  simp only [enablePort]
  (repeat' split) <;> first | exact offerPower_lineRun .. | exact .refl s

theorem disablePort_lineRun (p : Fin 4) (s : State) : LineRun s (disablePort p s) := by
  simp only [disablePort]
  split <;> first | exact movePort_lineRun .. | exact storePort_lineRun .. | exact .refl s

theorem portConfig_marked (port kind address : Byte) (datum : Word) (cls mode missLimit : Byte) (s : State) :
    Marked s (portConfig port kind address datum cls mode missLimit s).1 := by
  simp only [portConfig]
  (repeat' split) <;> first | exact .refl s | exact storePort_marked ..

theorem strayComes_marked (s : State) : Marked s (strayComes s) := by
  simp only [strayComes]
  split
  · exact .refl s
  · exact addMember_marked ..

theorem sbusCompletes_marked (l : List Bool) (k : Bool) (s : State) : Marked s (sbusCompletes l k s) := by
  simp only [sbusCompletes]
  (repeat' split) <;>
    first | exact .refl s | exact withBus_marked .. | exact (withBus_marked ..).trans (addMember_marked ..)

theorem portConfig_lineRun (port kind address : Byte) (datum : Word) (cls mode missLimit : Byte) (s : State) :
    LineRun s (portConfig port kind address datum cls mode missLimit s).1 := by
  obtain ⟨v, a, e⟩ := portConfig_effect port kind address datum cls mode missLimit s
  exact .own _ _ _ _ e (portConfig_marked ..)

theorem portEnable_lineRun (port : Byte) (s : State) : LineRun s (portEnable port s).1 := by
  simp only [portEnable]
  split
  · exact .refl s
  · exact enablePort_lineRun ..

theorem portDisable_lineRun (port : Byte) (s : State) : LineRun s (portDisable port s).1 := by
  simp only [portDisable]
  split
  · exact .refl s
  · exact disablePort_lineRun ..

theorem headZero_lineRun (port : Byte) (s : State) : LineRun s (headZero port s).1 := by
  simp only [headZero]
  (repeat' split) <;> first | exact .refl s | exact (putStatus_lineRun ..).trans (placeUser_lineRun ..)

theorem busRestart_lineRun (s : State) : LineRun s (busRestart s).1 := by
  simp only [busRestart]
  split <;> first | exact .refl s | exact breakBegins_lineRun s

theorem presenceLost_lineRun (p : Fin 4) (s : State) : LineRun s (presenceLost p s) := by
  simp only [presenceLost]
  split
  · exact storePort_lineRun ..
  · exact movePort_lineRun ..

theorem latchOpens_lineRun (p : Fin 4) (s : State) : LineRun s (latchOpens p s) := by
  simp only [latchOpens]
  split <;> first | exact movePort_lineRun .. | exact storePort_lineRun ..

theorem buttonPressed_lineRun (p : Fin 4) (s : State) : LineRun s (buttonPressed p s) := by
  simp only [buttonPressed]
  split <;> first | exact movePort_lineRun .. | exact storePort_lineRun ..

theorem statusAsserts_lineRun (p : Fin 4) (s : State) : LineRun s (statusAsserts p s) := by
  simp only [statusAsserts]
  split
  · exact movePort_lineRun ..
  · exact storePort_lineRun ..

theorem powerComesGood_lineRun (p : Fin 4) (s : State) : LineRun s (powerComesGood p s) := by
  simp only [powerComesGood]
  split
  · exact beginIdentify_lineRun ..
  · exact .refl s

theorem powerTimesOut_lineRun (p : Fin 4) (s : State) : LineRun s (powerTimesOut p s) := by
  simp only [powerTimesOut]
  split
  · exact movePort_lineRun ..
  · exact .refl s

theorem delayEnds_lineRun (p : Fin 4) (s : State) : LineRun s (delayEnds p s) := by
  simp only [delayEnds]
  split
  · exact beginIdentify_lineRun ..
  · exact .refl s

theorem holdOffExpires_lineRun (p : Fin 4) (s : State) : LineRun s (holdOffExpires p s) := by
  simp only [holdOffExpires]
  split
  · exact movePort_lineRun ..
  · exact .refl s

theorem lampBlinks_lineRun (p : Fin 4) (s : State) : LineRun s (lampBlinks p s) := by
  obtain ⟨v, e⟩ := lampBlinks_effect p s
  exact .own _ _ _ _ e (.of_eq (by rw [e]))

theorem busConfig_lineRun (d n : Half) (s : State) : LineRun s (busConfig d n s).1 := by
  obtain ⟨b, e⟩ := busConfig_effect d n s
  exact .own _ _ _ _ e (.of_eq (by rw [e]))

theorem cycleExpires_lineRun (s : State) : LineRun s (cycleExpires s) := by
  simp only [cycleExpires]
  split
  · exact (withBus_lineRun ..).trans (addMember_lineRun ..)
  · exact (withBus_lineRun ..).trans (placeUser_lineRun ..)

theorem windowCloses_lineRun (s : State) : LineRun s (windowCloses s) := by
  simp only [windowCloses]
  split <;> first | exact exchangeEnds_lineRun .. | exact .refl s

theorem replyIdles_lineRun (s : State) : LineRun s (replyIdles s) := by
  simp only [replyIdles]
  split <;> first | exact exchangeEnds_lineRun .. | exact .refl s

theorem replyOverruns_lineRun (s : State) : LineRun s (replyOverruns s) := by
  simp only [replyOverruns]
  split <;> first | exact (withBus_lineRun ..).trans (exchangeEnds_lineRun ..) | exact .refl s

theorem recoveryEnds_lineRun (s : State) : LineRun s (recoveryEnds s) := by
  simp only [recoveryEnds]
  split
  · exact endUser_lineRun s
  · exact .refl s

theorem strayComes_lineRun (s : State) : LineRun s (strayComes s) := by
  obtain ⟨a, e⟩ := strayComes_effect s
  exact .own _ _ _ _ e (strayComes_marked s)

theorem sbusCompletes_lineRun (l : List Bool) (k : Bool) (s : State) : LineRun s (sbusCompletes l k s) := by
  obtain ⟨b, a, e⟩ := sbusCompletes_effect l k s
  exact .own _ _ _ _ e (sbusCompletes_marked ..)

theorem putCarriage_linkOnly (c : Carriage) (s : State) : LinkOnly s (putCarriage c s) :=
  ⟨_, _, _, _, State.eq_of_fields (by simp) (CommandPort.eq_of_fields (by simp) (by simp) (by simp) (by simp) rfl (by simp)
    (by simp)) (by simp) (by simp) (by simp) (by simp) (by simp) (by simp) (by simp) rfl rfl rfl (by simp) (by simp)⟩

theorem takePointResult_linkOnly (x : PointResult) (s : State) : LinkOnly s (takePointResult x s) :=
  ⟨_, _, _, _, State.eq_of_fields (by simp) (CommandPort.eq_of_fields (by simp) (by simp) (by simp) (by simp) rfl (by simp)
    (by simp)) (by simp) (by simp) (by simp) (by simp) (by simp) (by simp) (by simp) rfl rfl rfl (by simp) (by simp)⟩

theorem exposureExpires_linkOnly (s : State) : LinkOnly s (exposureExpires s) := by
  simp only [exposureExpires]
  split
  · next x _ =>
    exact LinkOnly.trans (t := { s with meter := s.meter.finish x }) ⟨_, _, _, _, rfl⟩ (takePointResult_linkOnly ..)
  · exact .refl s

/-- Every command leaves what its class does not name as it was. -/
theorem effectOf_frame (c : Instr) (s : State) : (Touch.of c).Frame s (effectOf c s) := by
  cases c with
  | setTime f t => exact ⟨_, _, rfl⟩
  | readTime f => exact ⟨_, _, rfl⟩
  | readAttention f => exact ⟨_, _, rfl⟩
  | readTransaction n => exact ⟨_, _, rfl⟩
  | stationTimeRise => exact ⟨_, _, rfl⟩
  | unknownVerb f v => exact unknownFrame_frame ..
  | transactionBegin b =>
    obtain ⟨h, e⟩ := transactionBegins_effect b s
    exact ⟨h, _, e⟩
  | reset f => trivial
  | powerOnReset => trivial
  | resetRelease => trivial
  | portConfig => exact portConfig_lineRun ..
  | portEnable => exact portEnable_lineRun ..
  | portDisable => exact portDisable_lineRun ..
  | portRead f p => exact .own _ _ _ _ (portRead_effect p s) (.of_eq (congrArg (·.host.attention) (portRead_effect p s)))
  | headZero => exact headZero_lineRun ..
  | busConfig => exact busConfig_lineRun ..
  | busRestart => exact busRestart_lineRun s
  | presenceArrival => exact offerPower_lineRun ..
  | presenceLoss => exact presenceLost_lineRun ..
  | latchClosing => exact offerPower_lineRun ..
  | latchOpening => exact latchOpens_lineRun ..
  | buttonPress => exact buttonPressed_lineRun ..
  | statusAssertion => exact statusAsserts_lineRun ..
  | statusRelease => exact storePort_lineRun ..
  | powerGood => exact powerComesGood_lineRun ..
  | pgTimeout => exact powerTimesOut_lineRun ..
  | fixedDelayEnd => exact delayEnds_lineRun ..
  | holdOffExpiry => exact holdOffExpires_lineRun ..
  | lampBlink => exact lampBlinks_lineRun ..
  | powerSequencerTake => exact sequencerTake_lineRun s
  | stageCycleExpiry => exact cycleExpires_lineRun s
  | lineGrant => exact serveLine_lineRun s
  | pendingDivisorApply => exact withBus_lineRun ..
  | masterFrameBegin => exact frameBegins_lineRun s
  | masterFrameEnd => exact withBus_lineRun ..
  | replyWindowClose => exact windowCloses_lineRun s
  | replyIdleEnd => exact replyIdles_lineRun s
  | replyLimit => exact replyOverruns_lineRun s
  | lineIdleRelease => exact withBus_lineRun (fun b => { b with awaitIdle := false }) s
  | stray => exact strayComes_lineRun s
  | breakEnd => exact withBus_lineRun ..
  | recoveryEnd => exact recoveryEnds_lineRun s
  | startBitAccepted => exact withBus_lineRun ..
  | characterCompletion line l k =>
    cases line with
    | sbus => exact sbusCompletes_lineRun ..
    | wrx => exact wrxCompletes_effect ..
  | stagePolicy => exact stagePolicy_effect ..
  | stageRead => exact ⟨_, rfl⟩
  | observerEntry => exact observerEntry_effect ..
  | reselect => exact ⟨_, rfl⟩
  | ratingBegin f k e w => obtain ⟨r, h⟩ := ratingBegin_effect k e w s; exact ⟨r, _, h⟩
  | ratingPoints f k l => obtain ⟨r, h⟩ := ratingPoints_effect k l s; exact ⟨r, _, h⟩
  | ratingFinish f k => obtain ⟨r, h⟩ := ratingFinish_effect k s; exact ⟨r, _, h⟩
  | ratingRead f k i => exact ⟨_, _, ratingRead_effect k i s⟩
  | ratingRetire f k => obtain ⟨r, a, h⟩ := ratingRetire_effect k s; exact ⟨r, _, h⟩
  | shiftPut f k t v => obtain ⟨r, h⟩ := shiftPut_effect k t v s; exact ⟨r, _, h⟩
  | shiftRemove f k t => obtain ⟨r, h⟩ := shiftRemove_effect k t s; exact ⟨r, _, h⟩
  | shiftRead f k => exact ⟨_, _, shiftRead_effect k s⟩
  | flowRead => exact ⟨_, _, rfl⟩
  | watchPut f k su di th re ra cl le li wi ol =>
    obtain ⟨wu, ca, me, ga, a, h⟩ := watchPut_effect k su di th re ra cl le li wi ol s; exact ⟨wu, ca, me, ga, _, h⟩
  | watchRead f k => exact ⟨_, _, _, _, _, watchRead_effect k s⟩
  | watchAck f k => obtain ⟨wu, ca, me, ga, a, h⟩ := watchAck_effect k s; exact ⟨wu, ca, me, ga, _, h⟩
  | watchRemove f k => obtain ⟨wu, ca, me, ga, a, h⟩ := watchRemove_effect k s; exact ⟨wu, ca, me, ga, _, h⟩
  | lineConfig => exact ⟨_, _, _, _, _, rfl⟩
  | cablewayConfig => exact ⟨_, _, _, _, rfl⟩
  | cablewayHome => obtain ⟨ca, me, a, h⟩ := cablewayHome_effect s; exact ⟨ca, me, _, a, h⟩
  | cablewayHalt => exact cablewayHalt_effect s
  | cablewayRead => exact .refl s
  | meterConfig f e p a1 b1 nb a2 b2 =>
    obtain ⟨me, h⟩ := meterConfig_effect e p a1 b1 nb a2 b2 s; exact ⟨_, me, _, _, h⟩
  | gaugingPlan f k d m o u => obtain ⟨ga, h⟩ := gaugingPlan_effect k d m o u s; exact ⟨_, _, ga, _, h⟩
  | gaugingVerticals f k l => obtain ⟨ga, h⟩ := gaugingVerticals_effect k l s; exact ⟨_, _, ga, _, h⟩
  | gaugingStart => exact gaugingStart_effect ..
  | gaugingResume => exact gaugingResume_effect ..
  | gaugingAbort => exact gaugingAbort_effect ..
  | gaugingRead f k i => exact ⟨_, _, _, _, gaugingRead_effect k i s⟩
  | gaugingRetire f k => obtain ⟨ga, h⟩ := gaugingRetire_effect k s; exact ⟨_, _, ga, _, h⟩
  | holdAssertion => obtain ⟨ca, me, a, h⟩ := holdAsserts_effect s; exact ⟨ca, me, _, a, h⟩
  | holdRelease => obtain ⟨ca, me, a, h⟩ := holdReleases_effect s; exact ⟨ca, me, _, a, h⟩
  | surfaceContactAssertion => exact putCarriage_linkOnly ..
  | bedContactAssertion => exact touchBed_effect s
  | contactRelease => exact ⟨_, _, _, _, rfl⟩
  | position d h => exact winchSends_effect (WinchReport.position d h).message s
  | arrived => exact winchSends_effect WinchReport.arrived.message s
  | winchFault k => exact winchSends_effect (WinchReport.fault k).message s
  | winchLinkError => exact winchSends_effect ..
  | commandSent => exact ⟨_, _, _, _, rfl⟩
  | moveTimerExpiry => exact moveTimesOut_effect s
  | linkQuietDrain => exact ⟨_, _, _, _, rfl⟩
  | countEvent => exact ⟨_, _, _, _, rfl⟩
  | meterInputFall => exact ⟨_, _, _, _, rfl⟩
  | exposureExpiry => exact exposureExpires_linkOnly s
  | gaugingAdopt f k v =>
    obtain ⟨r, ga, a, h⟩ := gaugingAdopt_effect k v s; exact ⟨r, ga, _, h⟩

/-- The frame of a command by its class. -/
theorem frame_of {c : Instr} {k : Touch} (hk : Touch.of c = k) (s : State) : k.Frame s (effectOf c s) :=
  hk ▸ effectOf_frame c s

/-! ## Laws of every step -/

/-- A reset, and the release of RST_N, give the state after reset or the one before, but for the host's record, the stage
cycle timer and the model's own counters. -/
theorem effectOf_reset {c : Instr} (hk : Touch.of c = .reset) (s : State) : ∃ u, (u = State.reset ∨ u = s) ∧
    ∃ r h n d q,
      effectOf c s = { u with inReset := r, host := h, bus := { u.bus with cycleLeft := n }, freeDraws := d, pending := q } ∧
        h.attention = u.host.attention := by
  cases c with
  | reset f => exact ⟨.reset, .inl rfl, _, _, _, _, _, rfl, rfl⟩
  | powerOnReset => exact ⟨.reset, .inl rfl, _, _, _, _, _, rfl, rfl⟩
  | resetRelease =>
    simp only [effectOf, Meaning.of, Meaning.effect, leaveReset]
    split
    · exact ⟨s, .inr rfl, _, _, _, _, _, rfl, rfl⟩
    · exact ⟨s, .inr rfl, _, _, _, _, _, rfl, rfl⟩
  | characterCompletion line l k => cases line <;> simp [Touch.of] at hk
  | _ => simp [Touch.of] at hk

/-- A law holds after every step when it holds after reset, when a millisecond keeps it, when it does not look at the host's
record of a transaction, at the stage cycle timer or at the model's own counters, and when the effect of every command but a
reset keeps it. -/
theorem step_keeps_law (P : State → Prop) (h0 : P .reset) (ht : ∀ s, P s → P (tick s))
    (hf : ∀ s r h n d q, h.attention = s.host.attention → P s →
      P { s with inReset := r, host := h, bus := { s.bus with cycleLeft := n }, freeDraws := d, pending := q })
    (hc : ∀ c s, Touch.of c ≠ .reset → P s → P (effectOf c s)) (s t : State) (hs : P s) (h : step s = .next t) : P t := by
  have ha : ∀ u t, Answered u t → P u → P t := by
    rintro u _ ⟨x, rfl, hx⟩ hu
    exact hf u u.inReset x u.bus.cycleLeft u.freeDraws u.pending hx hu
  refine step_keeps P (fun s q hs => hf s s.inReset s.host s.bus.cycleLeft s.freeDraws q rfl hs) ht
    (fun c s t hs h => ?_) s t hs h
  rcases exec_answered h with hu | hu
  · exact ha _ _ hu hs
  · refine ha _ _ hu ?_
    by_cases hk : Touch.of c = .reset
    · obtain ⟨u, hu, r, h, n, d, q, e, hx⟩ := effectOf_reset hk s
      rw [e]
      refine hf u r h n d q hx ?_
      rcases hu with rfl | rfl
      · exact h0
      · exact hs
    · exact hc c s hk hs

end Sys2Proof.Machine
end

section
/-! The law of the attention summary (R182, R186): every command but a reset and READ_ATTENTION only adds members. -/

namespace Sys2Proof.Machine

/-! ## The messages of the winch, character by character -/

/-- What a change of the WRX receiver keeps, and the end of a message keeps, a message command keeps. -/
theorem takeHeld_elim {P : State → Prop} (hw : ∀ r s, P s → P (withWrx r s)) (hm : ∀ m s, P s → P (messageComes m s))
    {s : State} (hs : P s) : P (takeHeld s) := by
  simp only [takeHeld, takeChar]
  (repeat' split) <;> first | exact hs | exact hm _ _ (hw _ _ (hw _ _ hs)) | exact hw _ _ (hw _ _ hs)

theorem winchSends_elim {P : State → Prop} (hw : ∀ r s, P s → P (withWrx r s))
    (hm : ∀ m s, P s → P (messageComes m s)) (m : WinchMessage) {s : State} (hs : P s) : P (winchSends m s) := by
  have hchar : ∀ s c, P s → P (takeChar s c) := by
    intro s c hs
    simp only [takeChar]
    split
    · exact hm _ _ (hw _ _ hs)
    · exact hw _ _ hs
  have hheld : ∀ {s}, P s → P (takeHeld s) := takeHeld_elim hw hm
  have hbegun : P (if s.carriage.rx.begins m.chars then takeHeld (noteLoss m.overrun s)
      else noteLoss m.overrun (takeHeld s)) := by
    split
    · exact hheld (hw _ _ hs)
    · exact hw _ _ (hheld hs)
  have htaken := foldl_invariant P takeChar hchar
    ((s.carriage.rx.lacks m.chars).map fun b => ⟨b, false, m.framing⟩) hbegun
  have hgap : ∀ {u}, P u → P (gapEnds u) := by
    intro u hu
    simp only [gapEnds]
    split
    · exact hu
    · exact hm _ _ (hw _ _ hu)
  rw [winchSends]
  cases hg : m.gap
  · simpa only [hg, Bool.false_eq_true, if_false] using htaken
  · simpa only [hg, if_true] using hgap htaken

theorem wrxCompletes_elim {P : State → Prop} (hw : ∀ r s, P s → P (withWrx r s))
    (hm : ∀ m s, P s → P (messageComes m s)) (l : List Bool) (k : Bool) {s : State} (hs : P s) :
    P (wrxCompletes l k s) := by
  simp only [wrxCompletes, wrxDelivers]
  split
  · exact hw _ _ hs
  · next c _ =>
    have ht : P (if k = true then takeHeld (withWrx (s.carriage.rx.completedAt l c) s)
        else withWrx (s.carriage.rx.completedAt l c) s) := by
      split
      · exact takeHeld_elim hw hm (hw _ _ hs)
      · exact hw _ _ hs
    split <;> exact hw _ _ ht

/-! ## What adds members -/

theorem winchSends_marked (m : WinchMessage) (s : State) : Marked s (winchSends m s) :=
  winchSends_elim (fun r t h => h.trans (withWrx_marked r t)) (fun m t h => h.trans (messageComes_marked m t)) m (.refl s)

theorem wrxCompletes_marked (l : List Bool) (k : Bool) (s : State) : Marked s (wrxCompletes l k s) :=
  wrxCompletes_elim (fun r t h => h.trans (withWrx_marked r t)) (fun m t h => h.trans (messageComes_marked m t)) l k
    (.refl s)

theorem touchBed_marked (s : State) : Marked s (touchBed s) := by
  simp only [touchBed]
  (repeat' split) <;> first | exact stopCarriage_marked .. | exact putCarriage_marked ..

theorem moveTimesOut_marked (s : State) : Marked s (moveTimesOut s) := by
  simp only [moveTimesOut]
  split
  · exact stopCarriage_marked ..
  · exact .refl s

theorem cablewayHome_marked (s : State) : Marked s (cablewayHome s).1 := by
  simp only [cablewayHome]
  (repeat' split) <;> first | exact putCarriage_marked .. | exact .refl s

theorem exposureExpires_marked (s : State) : Marked s (exposureExpires s) := by
  simp only [exposureExpires]
  split
  · next x _ => exact .trans (t := { s with meter := s.meter.finish x }) (.of_eq rfl) (takePointResult_marked ..)
  · exact .refl s

theorem gaugingStart_marked (k : Byte) (s : State) : Marked s (gaugingStart k s).1 := by
  simp only [gaugingStart]
  (repeat' split) <;> first | exact .refl s | exact beginVisit_marked ..

theorem gaugingResume_marked (k : Byte) (s : State) : Marked s (gaugingResume k s).1 := by
  simp only [gaugingResume]
  (repeat' split) <;> first | exact .refl s | exact beginVisit_marked ..

theorem gaugingAbort_marked (k : Byte) (s : State) : Marked s (gaugingAbort k s).1 := by
  simp only [gaugingAbort]
  (repeat' split) <;> first | exact .refl s | exact (putGauging_marked ..).trans (askReturn_marked _)

theorem gaugingAdopt_marked (k : Byte) (v : Option Half) (s : State) : Marked s (gaugingAdopt k v s).1 := by
  simp only [gaugingAdopt]
  (repeat' split) <;> try exact .refl s
  simp only [adoptInto]
  split
  · refine .trans (t := (writeShift _ _ s).1) ?_ ((putGauging_marked ..).trans (addMember_marked ..))
    obtain ⟨r, e⟩ := writeShift_effect _ _ s
    rw [e]
    exact .of_eq rfl
  · exact .refl s

theorem ratingRetire_marked (k : Byte) (s : State) : Marked s (ratingRetire k s).1 := by
  simp only [ratingRetire]
  (repeat' split) <;>
    first | exact .refl s | exact .of_eq rfl | exact .trans (t := { s with ratings := _ }) (.of_eq rfl) (addMember_marked ..)

theorem watchPut_marked (k su di : Byte) (th re : Word) (ra cl le li wi ol : Byte) (s : State) :
    Marked s (watchPut k su di th re ra cl le li wi ol s).1 := by
  simp only [watchPut]
  split
  · exact putWatch_marked ..
  · exact .refl s

theorem watchAck_marked (k : Byte) (s : State) : Marked s (watchAck k s).1 := by
  simp only [watchAck]
  (repeat' split) <;> first | exact .refl s | exact putWatch_marked ..

theorem watchRemove_marked (k : Byte) (s : State) : Marked s (watchRemove k s).1 := by
  simp only [watchRemove]
  (repeat' split) <;> first | exact .refl s | exact putWatch_marked ..

/-- Every command but the resets and READ_ATTENTION only adds members to the attention summary. -/
theorem effectOf_marked {c : Instr} (s : State) (hr : Touch.of c ≠ .reset) (ha : ∀ f, c ≠ .readAttention f) :
    Marked s (effectOf c s) := by
  cases hk : Touch.of c with
  | reset => exact absurd hk hr
  | line => exact LineRun.marked (frame_of hk s)
  | selector =>
    obtain ⟨x, e⟩ := frame_of hk s
    exact .of_eq (by rw [e])
  | host =>
    cases c with
    | readAttention f => exact absurd rfl (ha f)
    | unknownVerb f v => cases v <;> (simp only [effectOf, Meaning.of, Meaning.effect, unknownFrame]; split <;> exact .of_eq rfl)
    | transactionBegin b =>
      simp only [effectOf, Meaning.of, Meaning.effect, transactionBegins, CommandPort.begun]
      (repeat' split) <;> exact .of_eq rfl
    | setTime | readTime | readTransaction | stationTimeRise => exact .of_eq rfl
    | characterCompletion line l k => cases line <;> simp [Touch.of] at hk
    | _ => simp [Touch.of] at hk
  | ratings =>
    cases c with
    | ratingRetire f k => exact ratingRetire_marked k s
    | ratingBegin f k e w => obtain ⟨r, h⟩ := ratingBegin_effect k e w s; exact .of_eq (congrArg (·.host.attention) h)
    | ratingPoints f k l => obtain ⟨r, h⟩ := ratingPoints_effect k l s; exact .of_eq (congrArg (·.host.attention) h)
    | ratingFinish f k => obtain ⟨r, h⟩ := ratingFinish_effect k s; exact .of_eq (congrArg (·.host.attention) h)
    | ratingRead f k i => exact .of_eq (congrArg (·.host.attention) (ratingRead_effect k i s))
    | shiftPut f k t v => obtain ⟨r, h⟩ := shiftPut_effect k t v s; exact .of_eq (congrArg (·.host.attention) h)
    | shiftRemove f k t => obtain ⟨r, h⟩ := shiftRemove_effect k t s; exact .of_eq (congrArg (·.host.attention) h)
    | shiftRead f k => exact .of_eq (congrArg (·.host.attention) (shiftRead_effect k s))
    | flowRead => exact .of_eq rfl
    | characterCompletion line l k => cases line <;> simp [Touch.of] at hk
    | _ => simp [Touch.of] at hk
  | watches =>
    cases c with
    | watchPut => exact watchPut_marked ..
    | watchRead f k => exact .of_eq (congrArg (·.host.attention) (watchRead_effect k s))
    | watchAck => exact watchAck_marked ..
    | watchRemove => exact watchRemove_marked ..
    | lineConfig => exact .of_eq rfl
    | characterCompletion line l k => cases line <;> simp [Touch.of] at hk
    | _ => simp [Touch.of] at hk
  | adoption =>
    cases c with
    | gaugingAdopt => exact gaugingAdopt_marked ..
    | characterCompletion line l k => cases line <;> simp [Touch.of] at hk
    | _ => simp [Touch.of] at hk
  | cableway =>
    cases c with
    | cablewayConfig | cablewayRead | contactRelease | commandSent | linkQuietDrain | countEvent | meterInputFall =>
      exact .of_eq rfl
    | cablewayHome => exact cablewayHome_marked s
    | cablewayHalt => exact stopCarriage_marked ..
    | meterConfig f e p a1 b1 nb a2 b2 =>
      obtain ⟨me, h⟩ := meterConfig_effect e p a1 b1 nb a2 b2 s; exact .of_eq (congrArg (·.host.attention) h)
    | gaugingPlan f k d m o u =>
      obtain ⟨ga, h⟩ := gaugingPlan_effect k d m o u s; exact .of_eq (congrArg (·.host.attention) h)
    | gaugingVerticals f k l =>
      obtain ⟨ga, h⟩ := gaugingVerticals_effect k l s; exact .of_eq (congrArg (·.host.attention) h)
    | gaugingStart => exact gaugingStart_marked ..
    | gaugingResume => exact gaugingResume_marked ..
    | gaugingAbort => exact gaugingAbort_marked ..
    | gaugingRead f k i => exact .of_eq (congrArg (·.host.attention) (gaugingRead_effect k i s))
    | gaugingRetire f k => obtain ⟨ga, h⟩ := gaugingRetire_effect k s; exact .of_eq (congrArg (·.host.attention) h)
    | holdAssertion => exact putCarriage_marked { s.carriage with hold := true } s
    | holdRelease => exact putCarriage_marked s.carriage.unhold s
    | surfaceContactAssertion => exact putCarriage_marked s.carriage.touchSurface s
    | bedContactAssertion => exact touchBed_marked s
    | position d h => exact winchSends_marked (WinchReport.position d h).message s
    | arrived => exact winchSends_marked WinchReport.arrived.message s
    | winchFault k => exact winchSends_marked (WinchReport.fault k).message s
    | winchLinkError m => exact winchSends_marked m s
    | moveTimerExpiry => exact moveTimesOut_marked s
    | exposureExpiry => exact exposureExpires_marked s
    | characterCompletion line l k =>
      cases line with
      | sbus => simp [Touch.of] at hk
      | wrx => exact wrxCompletes_marked l k s
    | _ => simp [Touch.of] at hk

/-! ## The statements -/

theorem attentionLaw_reset : AttentionLaw .reset := by
  unfold AttentionLaw
  decide

theorem powerLaw_reset : PowerLaw .reset := ⟨by decide, by decide, by decide, by decide⟩

theorem portLaw_reset : PortLaw .reset := by
  unfold PortLaw
  decide

theorem lineLaw_reset : LineLaw .reset := ⟨by decide, by decide, by decide, by decide, by decide⟩

theorem reset_slot (k : Fin 3) : State.reset.ratings.slots.get k = .reset := by
  revert k
  decide

theorem ratingLaw_reset : RatingLaw .reset := by
  refine ⟨by unfold InForceLaw; decide, fun k => ?_, fun k => ?_⟩
  · rw [reset_slot]
    exact ⟨by decide, .nil, fun x hx => absurd hx (List.not_mem_nil)⟩
  · rw [reset_slot]
    exact ⟨by decide, .nil, fun x hx => absurd hx (List.not_mem_nil)⟩

theorem watchUnitLaw_reset : WatchUnitLaw .reset := by
  have hn : ∀ k : Fin 24, State.reset.watches.table.get k = none := by decide
  refine ⟨fun k w h => ?_, by decide, by decide⟩
  rw [hn k] at h
  exact absurd h (by simp)

theorem withdrawLaw_reset : WithdrawLaw .reset where
  awaited _ o h := absurd h (by simp [State.reset, Carriage.reset])
  pending _ m h := absurd h (by simp [State.reset, Carriage.reset])
  demand h := absurd h (by decide)
  raising h := absurd h (by decide)

theorem holdLaw_reset : HoldLaw .reset := ⟨by decide, by decide⟩

theorem gaugingLaw_reset : GaugingLaw .reset := by
  have hn : ∀ n : Fin 4, State.reset.gaugings.get n = none := by decide
  intro i j g h hi
  rw [hn i] at hi
  exact absurd hi (by simp)

/-- Settles O3, one law at a time: right after a reset nothing is waiting, driven, raised or running. -/
theorem resetKeepsTheLaws : Obligations.ResetKeepsTheLaws :=
  ⟨attentionLaw_reset, powerLaw_reset, portLaw_reset, lineLaw_reset, ratingLaw_reset, watchUnitLaw_reset,
    withdrawLaw_reset, holdLaw_reset, gaugingLaw_reset⟩

/-- Settles O53: READ_ATTENTION empties the set, and every other command only adds members to it. -/
theorem everyStepKeepsTheAttentionLaw : Obligations.EveryStepKeepsTheAttentionLaw := by
  refine fun s t hs h => step_keeps_law AttentionLaw attentionLaw_reset (fun _ hs => hs) (fun s r h n d q hh hs => ?_)
    (fun c s hr hs => ?_) s t hs h
  · exact ⟨by simpa only [hh] using hs.1, by simpa only [hh] using hs.2⟩
  · by_cases ha : ∃ f, c = .readAttention f
    · obtain ⟨f, rfl⟩ := ha
      exact attentionLaw_reset
    · have hm := effectOf_marked s hr fun f e => ha ⟨f, e⟩
      exact ⟨(hm.high (by decide)).trans hs.1, (hm.high (by decide)).trans hs.2⟩

end Sys2Proof.Machine
end

section
/-! The laws of the ports (R5, R7, R17): what every command of the ports and the line does to the port records and the power
queue, in terms of four operations, and the two laws that these keep. -/

namespace Sys2Proof.Machine

/-! ## Laws of the port records and the power queue -/

/-- A law of the port records and the power queue that the port controller's operations keep: the write of a record that
goes neither into nor out of WAITING and POWERING, the move to a state other than these two, the offer for power, the
sequencer's take and the blink of a lamp. -/
structure PortsClosed (P : State → Prop) : Prop where
  congr : ∀ {s t}, P s → t.ports = s.ports → t.powerQueue = s.powerQueue → P t
  store : ∀ {s p r}, P s → (r.state = .waiting ↔ (s.ports.get p).state = .waiting) →
    (r.state = .powering ↔ (s.ports.get p).state = .powering) → P (storePort p r s)
  move : ∀ {s p r}, P s → r.state ≠ .waiting → r.state ≠ .powering → P (movePort p r s)
  offer : ∀ {s p r}, P s → (r.state = (s.ports.get p).state ∨
    (r.state = .empty ∧ (s.ports.get p).state ≠ .waiting ∧ (s.ports.get p).state ≠ .powering)) → P (offerPower p r s)
  take : ∀ {s}, P s → P (sequencerTake s)
  blink : ∀ {s} (p), P s → P (lampBlinks p s)

section
variable {P : State → Prop}

theorem PortsClosed.of_eq (hP : PortsClosed P) {s t u : State} (hs : P s) (e : t = u) (hp : u.ports = s.ports)
    (hq : u.powerQueue = s.powerQueue) : P t :=
  e ▸ hP.congr hs hp hq

/-- The write of a record in the state it had. -/
theorem PortsClosed.store_same (hP : PortsClosed P) {s : State} {p : Fin 4} {r : Port} (hs : P s)
    (h : r.state = (s.ports.get p).state) : P (storePort p r s) :=
  hP.store hs (by rw [h]) (by rw [h])

theorem polledWith_state (e : ReplyEnd) (r : Port) : (r.polledWith e).state = r.state := by
  simp only [Port.polledWith]
  (repeat' split) <;> rfl

theorem into_state (f : PortFields) (r : Port) : (f.into r).state = r.state := rfl

/-- An identity attempt leaves a record IDENTIFYING, ONLINE or FAULTED. -/
theorem attempted_state {r : Port} (e : ReplyEnd) (h : r.state = .identifying) :
    (r.attempted e).state = .identifying ∨ (r.attempted e).state = .online ∨ (r.attempted e).state = .faulted := by
  cases e <;> simp only [Port.attempted, Port.identified, Port.unanswered, Port.faulted] <;> split <;> simp [h]

theorem PortsClosed.portConfig (hP : PortsClosed P) (port kind address : Byte) (datum : Word)
    (cls mode missLimit : Byte) {s : State} (hs : P s) : P (portConfig port kind address datum cls mode missLimit s).1 := by
  simp only [Machine.portConfig]
  (repeat' split) <;> first | exact hs | exact hP.store_same hs rfl

theorem PortsClosed.portEnable (hP : PortsClosed P) (port : Byte) {s : State} (hs : P s) : P (portEnable port s).1 := by
  have hp : ∀ p, P (enablePort p s) := by
    intro p
    cases hst : (s.ports.get p).state with
    | disabled => simp only [enablePort, hst]; exact hP.offer hs (.inr ⟨rfl, by simp [hst], by simp [hst]⟩)
    | faulted => simp only [enablePort, hst]; exact hP.offer hs (.inr ⟨rfl, by simp [hst], by simp [hst]⟩)
    | empty =>
      simp only [enablePort, hst]
      (repeat' split) <;> first | exact hs | exact hP.offer hs (.inl hst.symm)
    | waiting | powering | identifying | online | removing => simpa only [enablePort, hst] using hs
  simp only [Machine.portEnable]
  split
  · exact hs
  · exact hp _

theorem PortsClosed.portDisable (hP : PortsClosed P) (port : Byte) {s : State} (hs : P s) : P (portDisable port s).1 := by
  have hp : ∀ p, P (disablePort p s) := by
    intro p
    cases hst : (s.ports.get p).state with
    | disabled => simpa only [disablePort, hst] using hs
    | faulted => simp only [disablePort, hst]; exact hP.store_same hs hst.symm
    | empty | waiting | powering | identifying | online | removing =>
      simp only [disablePort, hst]
      exact hP.move hs (by simp) (by simp)
  simp only [Machine.portDisable]
  split
  · exact hs
  · exact hp _

theorem PortsClosed.presenceLost (hP : PortsClosed P) (p : Fin 4) {s : State} (hs : P s) : P (presenceLost p s) := by
  simp only [Machine.presenceLost]
  split
  · exact hP.store_same hs rfl
  · exact hP.move hs (by simp [Port.emptied]) (by simp [Port.emptied])

theorem PortsClosed.latchOpens (hP : PortsClosed P) (p : Fin 4) {s : State} (hs : P s) : P (latchOpens p s) := by
  simp only [Machine.latchOpens]
  split
  case h_5 => exact hP.move hs (by simp [Port.emptied]) (by simp [Port.emptied])
  all_goals first
    | exact hP.move hs (by simp [Port.faulted]) (by simp [Port.faulted])
    | exact hP.store_same hs rfl

theorem PortsClosed.buttonPressed (hP : PortsClosed P) (p : Fin 4) {s : State} (hs : P s) : P (buttonPressed p s) := by
  simp only [Machine.buttonPressed]
  split
  case h_3 => exact hP.move hs (by simp [Port.emptied]) (by simp [Port.emptied])
  all_goals first
    | exact hP.move hs (by simp) (by simp)
    | exact hP.store_same hs rfl

theorem PortsClosed.statusAsserts (hP : PortsClosed P) (p : Fin 4) {s : State} (hs : P s) : P (statusAsserts p s) := by
  simp only [Machine.statusAsserts]
  split
  · exact hP.move hs (by simp [Port.faulted]) (by simp [Port.faulted])
  · exact hP.store_same hs rfl

theorem PortsClosed.beginIdentify (hP : PortsClosed P) (p : Fin 4) {s : State} (hs : P s) : P (beginIdentify p s) :=
  hP.congr (hP.move (s := putStatus p ReplyStatus.forNewHead s) (p := p) (r := (s.ports.get p).identifying)
    (hP.congr hs rfl rfl) (by simp [Port.identifying]) (by simp [Port.identifying])) (placeUser_ports ..)
    (placeUser_powerQueue ..)

theorem PortsClosed.powerComesGood (hP : PortsClosed P) (p : Fin 4) {s : State} (hs : P s) : P (powerComesGood p s) := by
  simp only [Machine.powerComesGood]
  split
  · exact hP.beginIdentify p hs
  · exact hs

theorem PortsClosed.delayEnds (hP : PortsClosed P) (p : Fin 4) {s : State} (hs : P s) : P (delayEnds p s) := by
  simp only [Machine.delayEnds]
  split
  · exact hP.beginIdentify p hs
  · exact hs

theorem PortsClosed.powerTimesOut (hP : PortsClosed P) (p : Fin 4) {s : State} (hs : P s) : P (powerTimesOut p s) := by
  simp only [Machine.powerTimesOut]
  split
  · exact hP.move hs (by simp [Port.faulted]) (by simp [Port.faulted])
  · exact hs

theorem PortsClosed.holdOffExpires (hP : PortsClosed P) (p : Fin 4) {s : State} (hs : P s) : P (holdOffExpires p s) := by
  simp only [Machine.holdOffExpires]
  split
  · exact hP.move hs (by simp [Port.emptied]) (by simp [Port.emptied])
  · exact hs

theorem PortsClosed.pollEnds (hP : PortsClosed P) (e : ReplyEnd) {s : State} (hs : P s) : P (pollEnds e s) := by
  simp only [Machine.pollEnds]
  split
  · exact hP.congr hs (by simp) (by simp)
  · refine hP.congr (hP.store_same (p := _) (r := (s.ports.get _).polledWith e) (hP.congr hs ?_ ?_) ?_)
      (advanceRound_ports ..) (advanceRound_powerQueue ..)
    · rfl
    · rfl
    · exact polledWith_state ..

theorem PortsClosed.takeAttempt (hP : PortsClosed P) (p : Fin 4) (e : ReplyEnd) {s : State} (hs : P s) :
    P (takeAttempt p e s) := by
  by_cases hst : (s.ports.get p).state = .identifying
  · have hr := attempted_state e hst
    have hstore : P (storePort p ((s.ports.get p).attempted e) s) := by
      refine hP.store hs ?_ ?_ <;> (rcases hr with h | h | h <;> simp [h, hst])
    simp only [Machine.takeAttempt, if_pos hst]
    split
    · exact hP.congr hstore (placeUser_ports ..) (placeUser_powerQueue ..)
    · exact hstore
  · simpa only [Machine.takeAttempt, if_neg hst] using hs

theorem PortsClosed.exchangeEnds (hP : PortsClosed P) (e : ReplyEnd) {s : State} (hs : P s) : P (exchangeEnds e s) := by
  have ht : P (match e with
      | .garbled _ => addMember .busError s
      | .good _ | .noReply => s) := by
    cases e with
    | garbled c => exact hP.congr hs rfl rfl
    | good chars => exact hs
    | noReply => exact hs
  simp only [Machine.exchangeEnds]
  split
  · exact hP.pollEnds e ht
  · refine hP.congr (hP.takeAttempt _ e (hP.congr ht ?_ ?_)) (serveLine_ports _) (serveLine_powerQueue _)
    · rfl
    · rfl
  · exact hP.congr ht (zeroExchangeEnds_ports ..) (zeroExchangeEnds_powerQueue ..)
  all_goals exact hs

theorem PortsClosed.reidentify (hP : PortsClosed P) (p : Fin 4) {s : State} (hs : P s) : P (reidentify p s) := by
  have hstore : ∀ {t : State} {r : Port}, P t → r.state = .identifying → (t.ports.get p).state ≠ .waiting →
      (t.ports.get p).state ≠ .powering → P (placeUser (.ident p) (storePort p r t)) := by
    intro t r ht hr hw hp
    refine hP.congr (hP.store ht (by simp [hr, hw]) (by simp [hr, hp])) (placeUser_ports ..) (placeUser_powerQueue ..)
  cases hst : (s.ports.get p).state with
  | online | removing =>
    simp only [Machine.reidentify, hst]
    exact hstore (hP.congr hs rfl rfl) rfl (by simp [hst]) (by simp [hst])
  | identifying =>
    simp only [Machine.reidentify, hst]
    exact hstore hs rfl (by simp [hst]) (by simp [hst])
  | empty | waiting | powering | faulted | disabled => simpa only [Machine.reidentify, hst] using hs

theorem PortsClosed.breakBegins (hP : PortsClosed P) {s : State} (hs : P s) : P (breakBegins s) :=
  foldl_invariant P _ (fun _ p ht => hP.reidentify p ht) _ (hP.congr hs (by simp) (by simp))

/-- Every command of the ports and the line keeps such a law. -/
theorem PortsClosed.effect (hP : PortsClosed P) {c : Instr} (hk : Touch.of c = .line) {s : State} (hs : P s) :
    P (effectOf c s) := by
  cases c with
  | portConfig => exact hP.portConfig _ _ _ _ _ _ _ hs
  | portEnable => exact hP.portEnable _ hs
  | portDisable => exact hP.portDisable _ hs
  | portRead f p => exact hP.of_eq hs (portRead_effect p s) rfl rfl
  | headZero f p =>
    obtain ⟨_, _, _, _, _, _, _, _, _, e⟩ := headZero_effect p s
    exact hP.of_eq hs e rfl rfl
  | busConfig f d n =>
    obtain ⟨_, e⟩ := busConfig_effect d n s
    exact hP.of_eq hs e rfl rfl
  | busRestart f =>
    simp only [effectOf, Meaning.of, Meaning.effect, busRestart]
    split <;> first | exact hs | exact hP.breakBegins hs
  | presenceArrival => exact hP.offer hs (.inl rfl)
  | presenceLoss => exact hP.presenceLost _ hs
  | latchClosing => exact hP.offer hs (.inl rfl)
  | latchOpening => exact hP.latchOpens _ hs
  | buttonPress => exact hP.buttonPressed _ hs
  | statusAssertion => exact hP.statusAsserts _ hs
  | statusRelease => exact hP.store_same hs rfl
  | powerGood => exact hP.powerComesGood _ hs
  | pgTimeout => exact hP.powerTimesOut _ hs
  | fixedDelayEnd => exact hP.delayEnds _ hs
  | holdOffExpiry => exact hP.holdOffExpires _ hs
  | lampBlink p => exact hP.blink p hs
  | powerSequencerTake => exact hP.take hs
  | stageCycleExpiry =>
    obtain ⟨_, _, _, _, _, _, _, _, _, e⟩ := cycleExpires_effect s
    exact hP.of_eq hs e rfl rfl
  | masterFrameBegin =>
    obtain ⟨_, _, _, _, _, _, _, _, _, e⟩ := frameBegins_effect s
    exact hP.of_eq hs e rfl rfl
  | recoveryEnd =>
    obtain ⟨_, _, _, _, _, _, _, _, _, e⟩ := recoveryEnds_effect s
    exact hP.of_eq hs e rfl rfl
  | lineGrant => exact hP.congr hs (serveLine_ports s) (serveLine_powerQueue s)
  | pendingDivisorApply | masterFrameEnd | lineIdleRelease | breakEnd | startBitAccepted => exact hP.congr hs rfl rfl
  | stray =>
    obtain ⟨_, e⟩ := strayComes_effect s
    exact hP.of_eq hs e rfl rfl
  | replyWindowClose =>
    simp only [effectOf, Meaning.of, Meaning.effect, windowCloses]
    split <;> first | exact hs | exact hP.exchangeEnds _ hs
  | replyIdleEnd =>
    simp only [effectOf, Meaning.of, Meaning.effect, replyIdles]
    split <;> first | exact hs | exact hP.exchangeEnds _ hs
  | replyLimit =>
    simp only [effectOf, Meaning.of, Meaning.effect, replyOverruns]
    split <;> first | exact hs | exact hP.exchangeEnds _ (hP.congr hs rfl rfl)
  | characterCompletion line l k =>
    cases line with
    | sbus =>
      obtain ⟨_, _, e⟩ := sbusCompletes_effect l k s
      exact hP.of_eq hs e rfl rfl
    | wrx => simp [Touch.of] at hk
  | _ => simp [Touch.of] at hk

/-- The commands of the other blocks leave the ports and the power queue as they are. -/
theorem ports_kept {c : Instr} (hr : Touch.of c ≠ .reset) (hl : Touch.of c ≠ .line) (s : State) :
    (effectOf c s).ports = s.ports ∧ (effectOf c s).powerQueue = s.powerQueue := by
  cases hk : Touch.of c with
  | reset => exact absurd hk hr
  | line => exact absurd hk hl
  | host => obtain ⟨_, _, e⟩ := frame_of hk s; rw [e]; exact ⟨rfl, rfl⟩
  | selector => obtain ⟨_, e⟩ := frame_of hk s; rw [e]; exact ⟨rfl, rfl⟩
  | ratings => obtain ⟨_, _, e⟩ := frame_of hk s; rw [e]; exact ⟨rfl, rfl⟩
  | watches => obtain ⟨_, _, _, _, _, e⟩ := frame_of hk s; rw [e]; exact ⟨rfl, rfl⟩
  | cableway => obtain ⟨_, _, _, _, e⟩ := frame_of hk s; rw [e]; exact ⟨rfl, rfl⟩
  | adoption => obtain ⟨_, _, _, e⟩ := frame_of hk s; rw [e]; exact ⟨rfl, rfl⟩

/-- Every step keeps such a law that also holds after reset and after every millisecond. -/
theorem PortsClosed.step (hP : PortsClosed P) (h0 : P .reset) (ht : ∀ s, P s → P (tick s)) (s t : State) (hs : P s)
    (h : step s = .next t) : P t := by
  refine step_keeps_law P h0 ht (fun s _ _ _ _ _ _ hs => hP.congr hs rfl rfl) (fun c s hr hs => ?_) s t hs h
  by_cases hl : Touch.of c = .line
  · exact hP.effect hl hs
  · exact hP.congr hs (ports_kept hr hl s).1 (ports_kept hr hl s).2

end

/-! ## The power queue (R7) -/

theorem powerLaw_of_states {s t : State} (h : PowerLaw s) (hq : t.powerQueue = s.powerQueue)
    (hp : ∀ p, (t.ports.get p).state = (s.ports.get p).state) : PowerLaw t := by
  constructor
  · rw [hq]; exact h.once
  · intro p; rw [hq, hp]; exact h.waiting p
  · intro p q; rw [hp, hp]; exact h.single p q
  · intro hne
    obtain ⟨p, h⟩ := h.served (hq ▸ hne)
    exact ⟨p, (hp p).trans h⟩

theorem lampBlinks_state (p q : Fin 4) (s : State) :
    ((lampBlinks p s).ports.get q).state = (s.ports.get q).state := by
  simp only [lampBlinks]
  split
  · by_cases h : q = p
    · subst h; simp
    · simp [putAt_get_ne _ _ h]
  · rfl

theorem powerLaw_closed : PortsClosed PowerLaw where
  congr := powerLaw_congr
  store h hw hp := storePort_powerLaw h hw hp
  move h hw hp := movePort_powerLaw h hw hp
  offer h hr := offerPower_powerLaw h hr
  take h := sequencerTake_powerLaw h.once h.waiting h.single
  blink p h := powerLaw_of_states h (by simp only [lampBlinks]; split <;> rfl) (lampBlinks_state p · _)

/-- Settles O54: the operations of the port controller keep the law of the power queue, and a millisecond changes no
state. -/
theorem everyStepKeepsThePowerLaw : Obligations.EveryStepKeepsThePowerLaw := fun s t hs h =>
  powerLaw_closed.step powerLaw_reset (fun _ hs => powerLaw_of_states hs rfl (by simp [tick])) s t hs h

/-! ## Silent fields and lamps (R5, R17) -/

/-- R17, R5: the silent field of one record is what it must be, and its lamp has a lit half only when it blinks. -/
def Port.InOrder (r : Port) : Prop := r.silent = r.silentNow ∧ (r.blinkLit = true → r.lamp.blinks = true)

/-- A written record is in order, when the one before was. -/
theorem settled_inOrder {old : Port} (r : Port) (h : old.InOrder) : (old.settled r).InOrder := by
  refine ⟨rfl, fun hb => ?_⟩
  by_contra hn
  rw [settled_blinkLit_steady (r := r) h.2 (Bool.eq_false_iff.mpr hn)] at hb
  exact absurd hb (by simp)

theorem storePort_portLaw {s : State} (p : Fin 4) (r : Port) (h : PortLaw s) : PortLaw (storePort p r s) := by
  intro q
  by_cases hq : q = p
  · subst hq
    rw [storePort_ports, putAt_get_self]
    exact settled_inOrder r (h q)
  · simpa [putAt_get_ne _ _ hq] using h q

theorem portLaw_congr {s t : State} (h : PortLaw s) (hp : t.ports = s.ports) : PortLaw t := by
  intro p
  rw [hp]
  exact h p

theorem sequencerTake_portLaw {s : State} (h : PortLaw s) : PortLaw (sequencerTake s) := by
  simp only [sequencerTake]
  (repeat' split)
  · exact h
  · exact h
  · exact storePort_portLaw _ _ (portLaw_congr h rfl)

theorem portLaw_closed : PortsClosed PortLaw where
  congr h hp _ := portLaw_congr h hp
  store h _ _ := storePort_portLaw _ _ h
  move {s p r} h _ _ := sequencerTake_portLaw (portLaw_congr (storePort_portLaw p r h) (by simp))
  offer {s p r} h _ := by
    simp only [offerPower]
    split
    · exact sequencerTake_portLaw (portLaw_congr (storePort_portLaw p _ h) rfl)
    · exact storePort_portLaw p _ h
  take := sequencerTake_portLaw
  blink {s} p h := by
    simp only [lampBlinks]
    split
    · next hb =>
      intro q
      by_cases hq : q = p
      · subst hq
        simpa using ⟨(h q).1, fun _ => hb⟩
      · simpa [putAt_get_ne _ _ hq] using h q
    · exact h

/-- Settles O55: every write of a record sets its silent field and its blink anew, and a lamp's half changes only while it
blinks. -/
theorem everyStepKeepsThePortLaw : Obligations.EveryStepKeepsThePortLaw := fun s t hs h =>
  portLaw_closed.step portLaw_reset (fun s hs p => by rw [tick, mapTable_get]; exact hs p) s t hs h

end Sys2Proof.Machine
end

section
/-! The laws of the cableway and the gauging unit (R128, R129, R136, R157): what every command does to the carriage and to
the gaugings, in terms of a few operations of either, and the laws that these keep. -/

namespace Sys2Proof.Machine

/-! ## Open gaugings -/

/-- R153: the slot holds a gauging that is RUNNING or SUSPENDED. -/
def OpenAt (s : State) (n : Fin 4) : Prop := ∃ g, s.gaugings.get n = some g ∧ g.state.isOpen = true

theorem gaugingOpen_iff (s : State) : gaugingOpen s = true ↔ ∃ n, OpenAt s n := by
  simp only [gaugingOpen, List.any_eq_true, Vector.mem_toList_iff, Vector.mem_iff_getElem, OpenAt, Option.any_eq_true]
  constructor
  · rintro ⟨o, ⟨i, hi, rfl⟩, g, hg, ho⟩
    exact ⟨⟨i, hi⟩, g, hg, ho⟩
  · rintro ⟨n, g, hg, ho⟩
    exact ⟨_, ⟨n.val, n.isLt, rfl⟩, g, hg, ho⟩

theorem not_openAt {s : State} (h : gaugingOpen s = false) (n : Fin 4) : ¬ OpenAt s n := fun hn => by
  rw [(gaugingOpen_iff s).mpr ⟨n, hn⟩] at h
  exact absurd h (by simp)

/-- The gauging that the search for a running one finds. -/
theorem runningGauging_some {s : State} {n : Fin 4} {g : Gauging} (h : runningGauging s = some (n, g)) :
    s.gaugings.get n = some g ∧ g.state = .running := by
  obtain ⟨m, _, hm⟩ := List.exists_of_findSome?_eq_some h
  split at hm
  · next g' hg =>
    split at hm
    · next hr => simp only [Option.some.injEq, Prod.mk.injEq] at hm; obtain ⟨rfl, rfl⟩ := hm; exact ⟨hg, hr⟩
    · exact absurd hm (by simp)
  · exact absurd hm (by simp)

theorem OpenAt.of_running {s : State} {n : Fin 4} {g : Gauging} (h : runningGauging s = some (n, g)) : OpenAt s n := by
  obtain ⟨hg, hr⟩ := runningGauging_some h
  exact ⟨g, hg, by rw [hr]; rfl⟩

/-! ## Laws of the carriage under the demand -/

/-- The two records differ at most outside what a law of the carriage's motion looks at. -/
structure SameMotion (c e : Carriage) : Prop where
  state : e.state = c.state
  phase : e.phase = c.phase
  onward : e.onward = c.onward
  pendingMove : e.pendingMove = c.pendingMove
  awaited : e.awaited = c.awaited
  moveLeft : e.moveLeft = c.moveLeft
  hold : e.hold = c.hold

/-- A law of the carriage under the demand that the cableway controller's operations keep. -/
structure CarriageRules (Q : Bool → Carriage → Prop) : Prop where
  same : ∀ {d : Bool} {c e : Carriage}, Q d c → SameMotion c e → Q d e
  visit : ∀ {c : Carriage} {x}, Q false c → Q false (c.traverse x)
  set : ∀ {c : Carriage} {x o}, Q false c → Q false (c.setMeter x o)
  moveOn : ∀ {c : Carriage} {x}, Q false c → Q false (c.raise (.distance x))
  ret : ∀ {d e : Bool} {c : Carriage}, c.state.working = true → Q d c → Q e c.enterReturn
  rest : ∀ {d e : Bool} {c : Carriage}, c.state.working = false → Q d c → Q e c
  fall : ∀ {d : Bool} {c : Carriage}, Q d c → Q false c
  stop : ∀ {d : Bool} {c : Carriage} {k}, Q d (c.stop k)
  hold : ∀ {d : Bool} {c : Carriage}, Q d c → Q d { c with hold := true }
  unhold : ∀ {d : Bool} {c : Carriage}, Q d c → Q d c.unhold
  halt : ∀ {d : Bool} {c : Carriage}, Q d c → c.state = .lowering ∨ c.state = .sounding →
    Q d (Carriage.await .halt { c with phase := .stopping })
  sent : ∀ {d : Bool} {c : Carriage}, Q d c → Q d c.sent
  homing : ∀ {d : Bool} {c : Carriage}, Q d c → Q d c.enterHoming
  /-- The awaited command has been answered. -/
  dropped : ∀ {d : Bool} {c : Carriage}, Q d c → Q d { c with awaited := none, moveLeft := none }
  parked : ∀ {d : Bool} {c : Carriage} {x}, Q d c → c.state = .homing ∨ c.state = .returning → c.awaited = none →
    Q d { c with state := .parked, distance := some 0, hoist := some 0, onward := x }
  lower : ∀ {d : Bool} {c : Carriage}, Q d c → c.state = .traversing → c.phase ≠ .stopping → Q d c.enterLowering
  sound : ∀ {d : Bool} {c : Carriage}, Q d c → c.state = .lowering → Q d c.enterSounding
  ended : ∀ {d : Bool} {c : Carriage}, Q d c → c.state = .sounding → Q d c.endSounding
  meter : ∀ {d : Bool} {c : Carriage}, Q d c → c.state = .setting → Q d { c with state := .waitingMeter }
  raiseHome : ∀ {d : Bool} {c : Carriage}, Q d c → Q d (c.raise .home)
  onTo : ∀ {d : Bool} {c : Carriage} {x}, Q d c → c.state = .raising → c.onward = some (.distance x) → Q d (c.traverse x)
  back : ∀ {d : Bool} {c : Carriage}, Q d c → c.state = .raising → Q d (Carriage.callMove (.traverseTo 0) { c with state := .returning })

/-- A law of the carriage under the demand and of the gaugings: it holds of a state whose carriage is rewritten lawfully,
and of one whose gauging record is rewritten, when that opens no gauging beside an open one. -/
structure UnitClosed (Q : Bool → Carriage → Prop) (P : State → Prop) : Prop where
  rules : CarriageRules Q
  law : ∀ {s : State}, P s → Q s.watches.demand s.carriage
  cable : ∀ {s t : State}, P s → Q t.watches.demand t.carriage → t.gaugings = s.gaugings → P t
  store : ∀ {s : State} {n : Fin 4} {og : Option Gauging}, P s →
    (∀ g, og = some g → g.state.isOpen = true → OpenAt s n ∨ gaugingOpen s = false) →
    P (storeGauging n og s)

section
variable {Q : Bool → Carriage → Prop} {P : State → Prop}

theorem UnitClosed.congr (hP : UnitClosed Q P) {s t : State} (hs : P s) (hc : t.carriage = s.carriage)
    (hd : t.watches.demand = s.watches.demand) (hg : t.gaugings = s.gaugings) : P t :=
  hP.cable hs (by rw [hc, hd]; exact hP.law hs) hg

theorem UnitClosed.same (hP : UnitClosed Q P) {s t : State} (hs : P s) (hm : SameMotion s.carriage t.carriage)
    (hd : t.watches.demand = s.watches.demand) (hg : t.gaugings = s.gaugings) : P t :=
  hP.cable hs (by rw [hd]; exact hP.rules.same (hP.law hs) hm) hg

/-! ## The gaugings' records -/

theorem UnitClosed.put (hP : UnitClosed Q P) {s : State} {n : Fin 4} {g : Gauging} (hs : P s)
    (h : g.state.isOpen = true → OpenAt s n ∨ gaugingOpen s = false) : P (putGauging n g s) := by
  refine hP.congr (hP.store (og := some g) (n := n) hs fun g' e ho => h ?_) ?_ ?_ ?_
  · simp only [Option.some.injEq] at e
    rw [e]
    exact ho
  · simp
  · simp
  · simp

theorem UnitClosed.member (hP : UnitClosed Q P) {s : State} (hs : P s) (m : Member) : P (addMember m s) :=
  hP.congr hs rfl rfl rfl

/-- Every gauging rewritten by a function that opens none. -/
theorem UnitClosed.each (hP : UnitClosed Q P) {f : Gauging → Gauging}
    (hf : ∀ g, (f g).state.isOpen = true → g.state.isOpen = true) {s : State} (hs : P s) : P (putEachGauging f s) := by
  refine foldl_invariant P _ (fun s n hs => ?_) _ hs
  split
  · next g hg => exact hP.put hs fun ho => .inl ⟨g, hg, hf g ho⟩
  · exact hs

theorem afterStop_open {k : StopCause} {g : Gauging} (h : (g.afterStop k).state.isOpen = true) :
    g.state.isOpen = true := by
  cases hg : g.state with
  | running | suspended => rfl
  | planned | complete | aborted => simpa [Gauging.afterStop, hg] using h

theorem afterWithdraw_open {g : Gauging} (h : g.afterWithdraw.state.isOpen = true) : g.state.isOpen = true := by
  simp only [Gauging.afterWithdraw] at h
  split at h
  · next hr => rw [hr]; rfl
  · exact h

theorem afterFlow_open {x : StageSample} {g : Gauging} (h : (g.afterFlow x).state.isOpen = true) :
    g.state.isOpen = true := by
  simp only [Gauging.afterFlow] at h
  split at h
  · next ho => exact ho
  · exact h

theorem UnitClosed.takeStopped (hP : UnitClosed Q P) (k : StopCause) {s : State} (hs : P s) : P (takeStopped k s) :=
  hP.each (fun _ => afterStop_open) hs

theorem UnitClosed.takeParked (hP : UnitClosed Q P) {s : State} (hs : P s) : P (takeParked s) := by
  refine foldl_invariant P _ (fun s n hs => ?_) _ hs
  split
  · next g hg =>
    split
    · exact hP.member (hP.put (g := { g with step := .none }) hs fun ho => .inl ⟨g, hg, ho⟩) _
    · exact hs
  · exact hs

/-! ## The requests -/

theorem UnitClosed.putCarriage (hP : UnitClosed Q P) {s : State} {c : Carriage} (hs : P s)
    (hc : Q s.watches.demand c) : P (putCarriage c s) :=
  hP.cable hs (by simpa using hc) (by simp)

theorem UnitClosed.askVisit (hP : UnitClosed Q P) (x : Nat) {s : State} (hs : P s) : P (askVisit x s) := by
  simp only [Machine.askVisit]
  split
  · next h =>
    have hd : s.watches.demand = false := by simp only [Carriage.takesVisit, Bool.and_eq_true, Bool.not_eq_true'] at h; exact h.1.2
    exact hP.putCarriage hs (hd ▸ hP.rules.visit (hd ▸ hP.law hs))
  · exact hs

theorem takesSet_demand {d : Bool} {c : Carriage} (h : c.takesSet d = true) : d = false := by
  simp only [Carriage.takesSet, Bool.and_eq_true, Bool.not_eq_true'] at h
  exact h.2

theorem UnitClosed.askSet (hP : UnitClosed Q P) (x o : Nat) {s : State} (hs : P s) : P (askSet x o s) := by
  simp only [Machine.askSet]
  split
  · next h =>
    have hd := takesSet_demand h
    exact hP.putCarriage hs (hd ▸ hP.rules.set (hd ▸ hP.law hs))
  · exact hs

theorem UnitClosed.askMoveOn (hP : UnitClosed Q P) (x : Nat) {s : State} (hs : P s) : P (askMoveOn x s) := by
  simp only [Machine.askMoveOn]
  split
  · next h =>
    have hd := takesSet_demand (Bool.and_eq_true_iff.mp h).1
    exact hP.putCarriage hs (hd ▸ hP.rules.moveOn (hd ▸ hP.law hs))
  · exact hs

theorem UnitClosed.askReturn (hP : UnitClosed Q P) {s : State} (hs : P s) : P (askReturn s) := by
  simp only [Machine.askReturn]
  split
  · next h => exact hP.putCarriage hs (hP.rules.ret h (hP.law hs))
  · exact hs

/-! ## The run of a gauging -/

theorem OpenAt.put {s : State} {n : Fin 4} {g : Gauging} (h : g.state.isOpen = true) : OpenAt (putGauging n g s) n :=
  ⟨g, by simp, h⟩

theorem UnitClosed.finishVertical (hP : UnitClosed Q P) {n : Fin 4} {g : Gauging} {i : Nat} {s : State} (hs : P s)
    (hn : OpenAt s n) : P (finishVertical n g i s) := by
  simp only [Machine.finishVertical]
  split
  · exact hP.askMoveOn _ (hP.member (hP.put hs fun _ => .inl hn) _)
  · exact hP.askReturn (hP.member (hP.put hs fun _ => .inl hn) _)

theorem UnitClosed.takeSounded (hP : UnitClosed Q P) (x : Nat) {s : State} (hs : P s) : P (takeSounded x s) := by
  simp only [Machine.takeSounded]
  split
  · next n g hr =>
    split
    · split
      · exact hP.askSet _ _ (hP.put hs fun _ => .inl (.of_running hr))
      · exact hP.finishVertical hs (.of_running hr)
    · exact hs
  · exact hs

theorem UnitClosed.takePointSet (hP : UnitClosed Q P) {s : State} (hs : P s) : P (takePointSet s) := by
  simp only [Machine.takePointSet]
  split
  · next n g hr =>
    have hp : ∀ g', P (putGauging n g' s) := fun g' => hP.put hs fun _ => .inl (.of_running hr)
    (repeat' split) <;> first | exact hs | exact hP.askReturn (hp _) | exact hP.congr (hp _) rfl rfl rfl
  · exact hs

theorem UnitClosed.takePointResult (hP : UnitClosed Q P) (x : PointResult) {s : State} (hs : P s) :
    P (takePointResult x s) := by
  simp only [Machine.takePointResult]
  split
  · next n g hr =>
    split
    · split
      · exact hP.askSet _ _ (hP.put hs fun _ => .inl (.of_running hr))
      · exact hP.finishVertical hs (.of_running hr)
    · exact hs
  · exact hs

theorem UnitClosed.beginVisit (hP : UnitClosed Q P) {n : Fin 4} {g : Gauging} {s : State} (hs : P s)
    (h : OpenAt s n ∨ gaugingOpen s = false) : P (beginVisit n g s) := by
  simp only [Machine.beginVisit]
  split
  · exact hP.askVisit _ (hP.put hs fun _ => h)
  · exact hP.put hs fun _ => h

/-! ## The events of the cableway -/

theorem UnitClosed.stopCarriage (hP : UnitClosed Q P) (k : StopCause) (c : Carriage) {s : State} (hs : P s) :
    P (stopCarriage k c s) := by
  have hput := hP.putCarriage (c := c.stop k) hs hP.rules.stop
  simp only [Machine.stopCarriage]
  split
  · exact hP.takeStopped k hput
  · exact hput

theorem UnitClosed.putSounding (hP : UnitClosed Q P) {c : Carriage} {s : State} (hs : P s)
    (hc : Q s.watches.demand c) : P (putSounding c s) := by
  simp only [Machine.putSounding]
  split
  · exact hP.takeSounded _ (hP.putCarriage hs hc)
  · exact hP.putCarriage hs hc

theorem UnitClosed.touchBed (hP : UnitClosed Q P) {s : State} (hs : P s) : P (touchBed s) := by
  have hc : Q s.watches.demand { s.carriage with bedContact := true } :=
    hP.rules.same (hP.law hs) ⟨rfl, rfl, rfl, rfl, rfl, rfl, rfl⟩
  simp only [Machine.touchBed]
  split
  · split
    · exact hP.stopCarriage _ _ hs
    · next h => exact hP.putCarriage hs (hP.rules.halt hc (.inr h))
    all_goals exact hP.putCarriage hs hc
  · exact hP.putCarriage hs hc

/-- R130: the answer acted on, of a lawful record with nothing awaited. -/
theorem UnitClosed.answered (hP : UnitClosed Q P) {c : Carriage} {s : State} (hs : P s)
    (hc : Q s.watches.demand c) (ha : c.awaited = none) : P (answered c s) := by
  have hR := hP.rules
  cases hst : c.state with
  | homing =>
    simp only [Machine.answered, hst]
    exact hP.putCarriage hs (hR.parked (x := c.onward) hc (.inl hst) ha)
  | traversing =>
    simp only [Machine.answered, hst]
    split
    · exact hP.putCarriage hs (hR.raiseHome hc)
    · next h => exact hP.putSounding hs (hR.lower hc hst h)
  | lowering =>
    simp only [Machine.answered, hst]
    split
    · exact hP.putSounding hs (hR.sound (hR.same hc ⟨hst.symm, rfl, rfl, rfl, rfl, rfl, rfl⟩) rfl)
    · exact hP.stopCarriage _ _ hs
  | sounding =>
    simp only [Machine.answered, hst]
    split
    · exact hP.putSounding hs (hR.ended hc hst)
    · exact hP.stopCarriage _ _ hs
  | setting =>
    simp only [Machine.answered, hst]
    exact hP.takePointSet (hP.putCarriage hs (hR.meter hc hst))
  | raising =>
    simp only [Machine.answered, hst]
    split
    · next x h => exact hP.putCarriage hs (hR.onTo hc hst h)
    · exact hP.putCarriage hs (hR.back hc hst)
    · exact hP.putCarriage hs (hR.back hc hst)
  | returning =>
    simp only [Machine.answered, hst]
    exact hP.takeParked (hP.putCarriage hs (hR.parked hc (.inr hst) ha))
  | unhomed | parked | waitingMeter | stopped =>
    simp only [Machine.answered, hst]
    exact hP.putCarriage hs hc

theorem UnitClosed.withWrx (hP : UnitClosed Q P) (r : Receiver) {s : State} (hs : P s) : P (withWrx r s) :=
  hP.same hs ⟨rfl, rfl, rfl, rfl, rfl, rfl, rfl⟩ rfl rfl

theorem UnitClosed.discardMessage (hP : UnitClosed Q P) (e : LinkError) {s : State} (hs : P s) :
    P (discardMessage e s) :=
  hP.same hs ⟨rfl, rfl, rfl, rfl, rfl, rfl, rfl⟩ rfl rfl

theorem UnitClosed.messageComes (hP : UnitClosed Q P) (m : WinchMessage) {s : State} (hs : P s) :
    P (messageComes m s) := by
  have hout : ∀ l, Q s.watches.demand { s.carriage with outstanding := l } := fun l =>
    hP.rules.same (hP.law hs) ⟨rfl, rfl, rfl, rfl, rfl, rfl, rfl⟩
  simp only [Machine.messageComes]
  split
  · exact hP.discardMessage _ hs
  · next r _ _ =>
    cases r with
    | position d h =>
      exact hP.same hs ⟨rfl, rfl, rfl, rfl, rfl, rfl, rfl⟩ rfl rfl
    | arrived =>
      simp only [reportComes, arrivedComes]
      split
      · exact hP.discardMessage _ hs
      · next o rest _ =>
        split
        · exact hP.answered hs (hP.rules.dropped (hout rest)) rfl
        · exact hP.cable hs (hout rest) rfl
    | fault k => exact hP.stopCarriage _ _ hs
  · exact hs

theorem UnitClosed.exposureExpires (hP : UnitClosed Q P) {s : State} (hs : P s) : P (exposureExpires s) := by
  simp only [Machine.exposureExpires]
  split
  · next x _ => exact hP.takePointResult x (hP.congr (t := { s with meter := s.meter.finish x }) hs rfl rfl rfl)
  · exact hs

theorem UnitClosed.cablewayHome (hP : UnitClosed Q P) {s : State} (hs : P s) : P (cablewayHome s).1 := by
  simp only [Machine.cablewayHome]
  (repeat' split) <;> first | exact hs | exact hP.putCarriage hs (hP.rules.homing (hP.law hs))

theorem touchSurface_rule (hR : CarriageRules Q) {d : Bool} {c : Carriage} (hc : Q d c) : Q d c.touchSurface := by
  have hs : Q d { c with surfaceContact := true } := hR.same hc ⟨rfl, rfl, rfl, rfl, rfl, rfl, rfl⟩
  simp only [Carriage.touchSurface]
  split
  · next h => exact hR.halt (c := { c with surfaceContact := true }) hs (.inl h.1)
  · exact hs

theorem UnitClosed.gaugingPlan (hP : UnitClosed Q P) (k d m : Byte) (o u : Half) {s : State} (hs : P s) :
    P (gaugingPlan k d m o u s).1 := by
  simp only [Machine.gaugingPlan]
  (repeat' split)
  · exact hs
  · exact hP.store hs fun g e ho => by simp only [Option.some.injEq] at e; subst e; exact absurd ho (by simp [Gauging.created, GaugingState.isOpen])
  · next n _ _ _ _ _ _ _ old _ h =>
    exact hP.store hs fun g e ho => by simp only [Option.some.injEq] at e; subst e; exact absurd ho (by simp [h, GaugingState.isOpen])
  · exact hs
  · exact hs

theorem UnitClosed.gaugingVerticals (hP : UnitClosed Q P) (k : Byte) (l : List VerticalField) {s : State} (hs : P s) :
    P (gaugingVerticals k l s).1 := by
  simp only [Machine.gaugingVerticals]
  (repeat' split) <;> try exact hs
  next n _ _ g hg _ _ _ _ _ =>
    exact hP.store hs fun g' e ho => by
      simp only [Option.some.injEq] at e
      subst e
      exact .inl ⟨g, hg, ho⟩

theorem UnitClosed.gaugingStart (hP : UnitClosed Q P) (k : Byte) {s : State} (hs : P s) : P (gaugingStart k s).1 := by
  simp only [Machine.gaugingStart]
  (repeat' split) <;> try exact hs
  next h _ _ => exact hP.beginVisit hs (.inr (Bool.eq_false_iff.mpr h))

theorem UnitClosed.gaugingResume (hP : UnitClosed Q P) (k : Byte) {s : State} (hs : P s) : P (gaugingResume k s).1 := by
  simp only [Machine.gaugingResume]
  (repeat' split) <;> try exact hs
  next n _ g hg hst _ _ =>
    refine hP.beginVisit hs (.inl ⟨g, hg, ?_⟩)
    rw [not_not.mp hst]
    rfl

theorem UnitClosed.gaugingAbort (hP : UnitClosed Q P) (k : Byte) {s : State} (hs : P s) : P (gaugingAbort k s).1 := by
  simp only [Machine.gaugingAbort]
  (repeat' split) <;> try exact hs
  exact hP.askReturn (hP.put hs fun ho => absurd ho (by simp [Gauging.abandoned, GaugingState.isOpen]))

theorem UnitClosed.gaugingRetire (hP : UnitClosed Q P) (k : Byte) {s : State} (hs : P s) : P (gaugingRetire k s).1 := by
  simp only [Machine.gaugingRetire]
  (repeat' split) <;> try exact hs
  exact hP.store hs fun g e => absurd e (by simp)

theorem UnitClosed.adoptInto (hP : UnitClosed Q P) {n : Fin 4} {g : Gauging} (k : Fin 3) (v : Int) {s : State} (hs : P s)
    (hg : s.gaugings.get n = some g) : P (adoptInto n g k v s).1 := by
  obtain ⟨r, e⟩ := writeShift_effect k { time := g.midpoint, shift := v } s
  simp only [Machine.adoptInto, e]
  split
  · have hw : P { s with ratings := r } := hP.congr hs rfl rfl rfl
    exact hP.member (hP.put (g := { g with adopted := true, adoptedShift := some { time := g.midpoint, shift := v } }) hw
      fun ho => .inl ⟨g, hg, ho⟩) _
  · exact hs

theorem UnitClosed.gaugingAdopt (hP : UnitClosed Q P) (k : Byte) (v : Option Half) {s : State} (hs : P s) :
    P (gaugingAdopt k v s).1 := by
  simp only [Machine.gaugingAdopt]
  (repeat' split) <;> first | exact hs | exact hP.adoptInto _ _ hs ‹_›

/-! ## The watches and the close -/

theorem UnitClosed.putWatches (hP : UnitClosed Q P) (u : WatchUnit) {s : State} (hs : P s) : P (putWatches u s) := by
  simp only [Machine.putWatches]
  split
  · next h =>
    refine hP.each (fun _ => afterWithdraw_open) ?_
    simp only [carriageWithdraw]
    split
    · next hw => exact hP.cable hs (by simpa using hP.rules.ret hw (hP.law (s := s) hs)) (by simp)
    · next hw => exact hP.cable hs (hP.rules.rest (by simpa using hw) (hP.law (s := s) hs)) rfl
  · next h =>
    refine hP.cable (t := { s with watches := u.settled }) hs ?_ rfl
    have hl := hP.law hs
    cases hd : u.settled.demand with
    | false => exact hP.rules.fall hl
    | true =>
      have hs' : s.watches.demand = true := by simpa [hd] using h
      rwa [hs'] at hl

theorem UnitClosed.putWatch (hP : UnitClosed Q P) (k : Fin 24) (w : Option Watch) {s : State} (hs : P s) :
    P (putWatch k w s) :=
  hP.putWatches _ (hP.member hs _)

theorem UnitClosed.handRound (hP : UnitClosed Q P) (recs : List ReadingRecord) {s : State} (hs : P s) :
    P (handRound recs s) := by
  simp only [Machine.handRound]
  split
  · simp only [publishSample, publishFlow, watchesTake]
    refine hP.each (fun _ => afterFlow_open) (hP.putWatches _ (hP.congr hs ?_ ?_ ?_)) <;> simp
  · exact hP.congr hs rfl rfl rfl

/-- Every command but a reset keeps such a law. -/
theorem UnitClosed.effect (hP : UnitClosed Q P) {c : Instr} (hr : Touch.of c ≠ .reset) {s : State} (hs : P s) :
    P (effectOf c s) := by
  cases hk : Touch.of c with
  | reset => exact absurd hk hr
  | host => obtain ⟨_, _, e⟩ := frame_of hk s; rw [e]; exact hP.congr hs rfl rfl rfl
  | selector => obtain ⟨_, e⟩ := frame_of hk s; rw [e]; exact hP.congr hs rfl rfl rfl
  | ratings => obtain ⟨_, _, e⟩ := frame_of hk s; rw [e]; exact hP.congr hs rfl rfl rfl
  | line =>
    exact LineRun.elim (frame_of hk s) (fun s v q b h hs => hP.congr hs rfl rfl rfl) (fun recs s hs => hP.handRound recs hs) hs
  | adoption =>
    cases c with
    | gaugingAdopt f k v => exact hP.gaugingAdopt k v hs
    | characterCompletion line l k => cases line <;> simp [Touch.of] at hk
    | _ => simp [Touch.of] at hk
  | watches =>
    cases c with
    | watchPut f k su di th re ra cl le li wi ol =>
      simp only [effectOf, Meaning.of, Meaning.effect, watchPut]
      split
      · exact hP.putWatch _ _ hs
      · exact hs
    | watchRead f k =>
      have e : effectOf (.watchRead f k) s = s := watchRead_effect k s
      rwa [e]
    | watchAck f k =>
      simp only [effectOf, Meaning.of, Meaning.effect, watchAck]
      (repeat' split) <;> first | exact hs | exact hP.putWatch _ _ hs
    | watchRemove f k =>
      simp only [effectOf, Meaning.of, Meaning.effect, watchRemove]
      (repeat' split) <;> first | exact hs | exact hP.putWatch _ _ hs
    | lineConfig => exact hP.congr hs rfl rfl rfl
    | characterCompletion line l k => cases line <;> simp [Touch.of] at hk
    | _ => simp [Touch.of] at hk
  | cableway =>
    have hsame : ∀ {e : Carriage}, SameMotion s.carriage e → P { s with carriage := e } := fun h =>
      hP.same hs h rfl rfl
    have hwrx : ∀ r s, P s → P (Machine.withWrx r s) := fun r _ h => hP.withWrx r h
    have hmsg : ∀ m s, P s → P (Machine.messageComes m s) := fun m _ h => hP.messageComes m h
    cases c with
    | cablewayConfig => exact hsame ⟨rfl, rfl, rfl, rfl, rfl, rfl, rfl⟩
    | contactRelease k => cases k <;> exact hsame ⟨rfl, rfl, rfl, rfl, rfl, rfl, rfl⟩
    | linkQuietDrain =>
      refine hsame (e := s.carriage.quiet) ?_
      simp only [Carriage.quiet]
      split <;> exact ⟨rfl, rfl, rfl, rfl, rfl, rfl, rfl⟩
    | commandSent => exact hP.cable hs (hP.rules.sent (hP.law hs)) rfl
    | cablewayRead => exact hs
    | countEvent | meterInputFall => exact hP.congr hs rfl rfl rfl
    | cablewayHome => exact hP.cablewayHome hs
    | cablewayHalt => exact hP.stopCarriage _ _ hs
    | meterConfig f e p a1 b1 nb a2 b2 =>
      obtain ⟨me, h⟩ := meterConfig_effect e p a1 b1 nb a2 b2 s
      have e : effectOf (.meterConfig f e p a1 b1 nb a2 b2) s = { s with meter := me } := h
      rw [e]
      exact hP.congr hs rfl rfl rfl
    | gaugingPlan f k d m o u => exact hP.gaugingPlan k d m o u hs
    | gaugingVerticals f k l => exact hP.gaugingVerticals k l hs
    | gaugingStart f k => exact hP.gaugingStart k hs
    | gaugingResume f k => exact hP.gaugingResume k hs
    | gaugingAbort f k => exact hP.gaugingAbort k hs
    | gaugingRead f k i =>
      have e : effectOf (.gaugingRead f k i) s = s := gaugingRead_effect k i s
      rwa [e]
    | gaugingRetire f k => exact hP.gaugingRetire k hs
    | holdAssertion => exact hP.putCarriage hs (hP.rules.hold (hP.law hs))
    | holdRelease => exact hP.putCarriage hs (hP.rules.unhold (hP.law hs))
    | surfaceContactAssertion => exact hP.putCarriage hs (touchSurface_rule hP.rules (hP.law hs))
    | bedContactAssertion => exact hP.touchBed hs
    | position d h => exact winchSends_elim hwrx hmsg (WinchReport.position d h).message hs
    | arrived => exact winchSends_elim hwrx hmsg WinchReport.arrived.message hs
    | winchFault k => exact winchSends_elim hwrx hmsg (WinchReport.fault k).message hs
    | winchLinkError m => exact winchSends_elim hwrx hmsg m hs
    | moveTimerExpiry =>
      simp only [effectOf, Meaning.of, Meaning.effect, moveTimesOut]
      split
      · exact hP.stopCarriage _ _ hs
      · exact hs
    | exposureExpiry => exact hP.exposureExpires hs
    | characterCompletion line l k =>
      cases line with
      | sbus => simp [Touch.of] at hk
      | wrx => exact wrxCompletes_elim hwrx hmsg l k hs
    | _ => simp [Touch.of] at hk

/-- Every step keeps such a law that also holds after reset and after every millisecond. -/
theorem UnitClosed.step (hP : UnitClosed Q P) (h0 : P .reset)
    (ht : ∀ {d : Bool} {c : Carriage}, Q d c → Q d { c with moveLeft := c.moveLeft.map (· - 1) }) (s t : State) (hs : P s)
    (h : step s = .next t) : P t :=
  step_keeps_law P h0 (fun _ hs => hP.cable hs (ht (hP.law hs)) rfl) (fun _ _ _ _ _ _ _ hs => hP.congr hs rfl rfl rfl)
    (fun _ _ hr hs => hP.effect hr hs) s t hs h

end

/-! ## O60: one gauging open -/

/-- Laws of the gaugings alone ask nothing of the carriage. -/
theorem carriageRules_trivial : CarriageRules fun _ _ => True := by
  constructor <;> intros <;> trivial

theorem gaugingLaw_iff (s : State) : GaugingLaw s ↔ ∀ i j, OpenAt s i → OpenAt s j → i = j :=
  ⟨fun h i j ⟨_, hi, oi⟩ ⟨_, hj, oj⟩ => h i j _ _ hi hj oi oj,
    fun h i j _ _ hi hj oi oj => h i j ⟨_, hi, oi⟩ ⟨_, hj, oj⟩⟩

theorem gaugingLaw_store {s : State} {n : Fin 4} {og : Option Gauging} (hs : GaugingLaw s)
    (h : ∀ g, og = some g → g.state.isOpen = true → OpenAt s n ∨ gaugingOpen s = false) :
    GaugingLaw (storeGauging n og s) := by
  rw [gaugingLaw_iff] at hs ⊢
  -- A gauging open afterwards was open before, or stands in the slot written while none was open.
  have hopen : ∀ i, OpenAt (storeGauging n og s) i → OpenAt s i ∨ (i = n ∧ gaugingOpen s = false) := by
    rintro i ⟨g, hg, ho⟩
    by_cases hi : i = n
    · subst hi
      rcases h g (by simpa using hg) ho with h | h
      · exact .inl h
      · exact .inr ⟨rfl, h⟩
    · exact .inl ⟨g, by rwa [storeGauging_gaugings, putAt_get_ne _ _ hi] at hg, ho⟩
  intro i j hi hj
  rcases hopen i hi with hi | ⟨hin, hn⟩ <;> rcases hopen j hj with hj | ⟨hjn, hn'⟩
  · exact hs i j hi hj
  · exact absurd hi (not_openAt hn' i)
  · exact absurd hj (not_openAt hn j)
  · exact hin.trans hjn.symm

theorem gaugingLaw_closed : UnitClosed (fun _ _ => True) GaugingLaw where
  rules := carriageRules_trivial
  law _ := trivial
  cable hs _ h := by
    intro i j
    rw [h]
    exact hs i j
  store := gaugingLaw_store

/-- Settles O60: a record written opens no gauging beside an open one. -/
theorem everyStepKeepsTheGaugingLaw : Obligations.EveryStepKeepsTheGaugingLaw :=
  gaugingLaw_closed.step gaugingLaw_reset fun _ => trivial

/-! ## O58: the carriage under the demand, HOLD and the move timer -/

/-- R128, R129: `HoldLaw` of a carriage record. -/
structure HoldOk (c : Carriage) : Prop where
  pending : c.pendingMove.isSome = true → c.hold = true ∧ c.awaited = none
  timer : c.moveLeft.isSome = true → c.awaited.isSome = true

/-- R136, R137: `WithdrawLaw` of a carriage record under a demand. -/
structure WithdrawOk (d : Bool) (c : Carriage) : Prop where
  awaited : c.homeward = true → ∀ o, c.awaited = some o → o.command.inward
  pending : c.homeward = true → ∀ m, c.pendingMove = some m → m.inward
  demand : d = true → c.homeward = true
  raising : d = true → c.state = .raising → c.onward = some .home

theorem holdLaw_iff (s : State) : HoldLaw s ↔ HoldOk s.carriage := ⟨fun ⟨a, b⟩ => ⟨a, b⟩, fun ⟨a, b⟩ => ⟨a, b⟩⟩

theorem withdrawLaw_iff (s : State) : WithdrawLaw s ↔ WithdrawOk s.watches.demand s.carriage :=
  ⟨fun ⟨a, b, c, d⟩ => ⟨a, b, c, d⟩, fun ⟨a, b, c, d⟩ => ⟨a, b, c, d⟩⟩

theorem holdOk_await (m : WinchCommand) (c : Carriage) : HoldOk (c.await m) :=
  ⟨fun h => by simp [Carriage.await] at h, fun h => by simp [Carriage.await] at h⟩

theorem holdOk_callMove (m : WinchCommand) (c : Carriage) : HoldOk (c.callMove m) := by
  simp only [Carriage.callMove]
  split
  · next h => exact ⟨fun _ => ⟨h, rfl⟩, fun h => by simp at h⟩
  · exact holdOk_await m c

theorem withdrawOk_await {m : WinchCommand} {d : Bool} {c : Carriage} (hm : c.homeward = true → m.inward)
    (hd : d = true → c.homeward = true) (hr : d = true → c.state = .raising → c.onward = some .home) :
    WithdrawOk d (c.await m) where
  awaited h o ho := by
    obtain rfl : _ = o := Option.some.inj ho
    exact hm h
  pending _ _ h := absurd h (by simp [Carriage.await])
  demand := hd
  raising := hr

theorem withdrawOk_callMove {m : WinchCommand} {d : Bool} {c : Carriage} (hm : c.homeward = true → m.inward)
    (hd : d = true → c.homeward = true) (hr : d = true → c.state = .raising → c.onward = some .home) :
    WithdrawOk d (c.callMove m) := by
  simp only [Carriage.callMove]
  split
  · exact ⟨fun _ _ h => absurd h (by simp), fun h m' h' => Option.some.inj h' ▸ hm h, hd, hr⟩
  · exact withdrawOk_await hm hd hr

/-- R135: a raise is an inward move. -/
theorem withdrawOk_raise {d : Bool} (x : Onward) (c : Carriage) (hx : d = true → x = .home) : WithdrawOk d (c.raise x) :=
  withdrawOk_callMove (fun _ => rfl) (fun _ => rfl) fun h _ => congrArg some (hx h)

/-- R136: a carriage out on the cable has no demand. -/
theorem WithdrawOk.free {d : Bool} {c : Carriage} (h : WithdrawOk d c) (hc : c.homeward = false) : d = false := by
  cases d with
  | false => rfl
  | true => rw [h.demand rfl] at hc; exact absurd hc (by simp)

/-- R132: a command of a carriage out on the cable, without a demand, may be any. -/
theorem withdrawOk_out {m : WinchCommand} {c : Carriage} (hc : c.homeward = false) : WithdrawOk false (c.callMove m) :=
  withdrawOk_callMove (fun h => by rw [hc] at h; exact absurd h (by simp)) (fun h => by simp at h) fun h => by simp at h

theorem holdRules : CarriageRules fun _ c => HoldOk c where
  same h m := ⟨by rw [m.pendingMove, m.hold, m.awaited]; exact h.pending, by rw [m.moveLeft, m.awaited]; exact h.timer⟩
  visit _ := holdOk_callMove ..
  set _ := holdOk_callMove ..
  moveOn _ := holdOk_callMove ..
  ret hw h := by
    simp only [Carriage.enterReturn]
    (repeat' split) <;> first | exact ⟨h.pending, h.timer⟩ | exact holdOk_callMove .. | exact holdOk_await ..
  rest _ h := h
  fall h := h
  stop := ⟨fun h => by simp [Carriage.stop] at h, fun h => by simp [Carriage.stop] at h⟩
  hold h := ⟨fun hp => ⟨rfl, (h.pending hp).2⟩, h.timer⟩
  unhold h := by
    simp only [Carriage.unhold]
    split
    · exact holdOk_await ..
    · next hp => exact ⟨fun h' => absurd h' (by simp [hp]), h.timer⟩
  halt _ _ := holdOk_await ..
  sent h := by
    simp only [Carriage.sent]
    split
    · exact h
    · refine ⟨h.pending, fun ht => ?_⟩
      simp only at ht
      split at ht
      · next ha => simp [ha]
      · exact h.timer ht
  homing _ := holdOk_callMove ..
  dropped h := ⟨fun hp => ⟨(h.pending hp).1, rfl⟩, fun ht => by simp at ht⟩
  parked h _ _ := ⟨h.pending, h.timer⟩
  lower h _ _ := by
    simp only [Carriage.enterLowering, Carriage.enterSounding]
    (repeat' split)
    · exact ⟨fun hp => ⟨(h.pending hp).1, rfl⟩, fun ht => by simp at ht⟩
    · exact holdOk_callMove ..
    · exact holdOk_callMove ..
  sound h _ := by
    simp only [Carriage.enterSounding]
    split
    · exact ⟨fun hp => ⟨(h.pending hp).1, rfl⟩, fun ht => by simp at ht⟩
    · exact holdOk_callMove ..
  ended h _ := ⟨fun hp => ⟨(h.pending hp).1, rfl⟩, fun ht => by simp [Carriage.endSounding] at ht⟩
  meter h _ := ⟨h.pending, h.timer⟩
  raiseHome _ := holdOk_callMove ..
  onTo _ _ _ := holdOk_callMove ..
  back _ _ := holdOk_callMove ..

/-- A record out on the cable keeps the law of no demand. -/
theorem withdrawOk_of_out {c : Carriage} (hc : c.homeward = false) : WithdrawOk false c where
  awaited h := by rw [hc] at h; exact absurd h (by simp)
  pending h := by rw [hc] at h; exact absurd h (by simp)
  demand h := by simp at h
  raising h := by simp at h

theorem enterSounding_out (c : Carriage) : c.enterSounding.homeward = false := by
  simp only [Carriage.enterSounding, Carriage.callMove]
  (repeat' split) <;> rfl

theorem enterLowering_out (c : Carriage) : c.enterLowering.homeward = false := by
  simp only [Carriage.enterLowering]
  split
  · exact enterSounding_out _
  · simp only [Carriage.callMove]
    split <;> rfl

theorem homeward_same {c e : Carriage} (m : SameMotion c e) : e.homeward = c.homeward := by
  simp only [Carriage.homeward, m.state, m.phase]

theorem withdrawRules : CarriageRules WithdrawOk where
  same h m := by
    have hh := homeward_same m
    exact ⟨by rw [hh, m.awaited]; exact h.awaited, by rw [hh, m.pendingMove]; exact h.pending, by rw [hh]; exact h.demand,
      by rw [m.state, m.onward]; exact h.raising⟩
  visit _ := withdrawOk_out rfl
  set _ := withdrawOk_out rfl
  moveOn _ := withdrawOk_raise _ _ fun h => by simp at h
  ret {d e c} hw h := by
    have home : ∀ {c' : Carriage}, c.homeward = true → c'.homeward = true → c'.awaited = c.awaited →
        c'.pendingMove = c.pendingMove → (c'.state = .raising → c'.onward = some .home) → WithdrawOk e c' :=
      fun hc hc' ha hp hr => ⟨fun _ => ha ▸ h.awaited hc, fun _ => hp ▸ h.pending hc, fun _ => hc', fun _ => hr⟩
    cases hst : c.state with
    | traversing =>
      simp only [Carriage.enterReturn, hst]
      split
      · next hp =>
        exact home (by simp [Carriage.homeward, hst, hp]) (by simp [Carriage.homeward, hp]) rfl rfl fun _ => rfl
      · split
        · exact withdrawOk_raise _ _ fun _ => rfl
        · exact withdrawOk_await (fun _ => trivial) (fun _ => rfl) fun _ h => by simp at h
    | lowering | sounding | setting | waitingMeter =>
      simp only [Carriage.enterReturn, hst]
      exact withdrawOk_raise _ _ fun _ => rfl
    | raising =>
      simp only [Carriage.enterReturn, hst]
      exact home (by simp [Carriage.homeward, hst]) rfl rfl rfl fun _ => rfl
    | returning =>
      simp only [Carriage.enterReturn, hst]
      have hh : c.homeward = true := by simp [Carriage.homeward, hst]
      exact home hh hh rfl rfl fun h => by simp [hst] at h
    | unhomed | homing | parked | stopped => simp [hst, CarriageState.working] at hw
  rest {d e c} hw h := by
    have hh : c.homeward = true ∧ c.state ≠ .raising := by
      cases hst : c.state <;> simp [hst, CarriageState.working, Carriage.homeward] at hw ⊢
    exact ⟨h.awaited, h.pending, fun _ => hh.1, fun _ hr => absurd hr hh.2⟩
  fall h := ⟨h.awaited, h.pending, fun h => by simp at h, fun h => by simp at h⟩
  stop := ⟨fun _ _ h => by simp [Carriage.stop] at h, fun _ _ h => by simp [Carriage.stop] at h, fun _ => rfl,
    fun _ h => by simp [Carriage.stop] at h⟩
  hold h := ⟨h.awaited, h.pending, h.demand, h.raising⟩
  unhold h := by
    simp only [Carriage.unhold]
    split
    · next m hp => exact withdrawOk_await (fun hh => h.pending hh m hp) h.demand h.raising
    · exact ⟨h.awaited, h.pending, h.demand, h.raising⟩
  halt {d c} h hc := by
    have ho : c.homeward = false := by rcases hc with hc | hc <;> simp [Carriage.homeward, hc]
    obtain rfl := h.free ho
    exact withdrawOk_await (fun _ => trivial) (fun h => by simp at h) fun h => by simp at h
  sent h := by
    simp only [Carriage.sent]
    split
    · exact h
    · exact ⟨h.awaited, h.pending, h.demand, h.raising⟩
  homing _ := withdrawOk_callMove (fun _ => trivial) (fun _ => rfl) fun _ h => by simp at h
  dropped h := ⟨fun _ _ h => by simp at h, h.pending, h.demand, h.raising⟩
  parked {d c x} h hc ha := by
    have hh : c.homeward = true := by rcases hc with hc | hc <;> simp [Carriage.homeward, hc]
    exact ⟨fun _ _ h => by simp [ha] at h, fun _ => h.pending hh, fun _ => rfl, fun _ h => by simp at h⟩
  lower {d c} h hst hp := by
    obtain rfl := h.free (by simp [Carriage.homeward, hst, hp])
    exact withdrawOk_of_out (enterLowering_out c)
  sound {d c} h hst := by
    obtain rfl := h.free (by simp [Carriage.homeward, hst])
    exact withdrawOk_of_out (enterSounding_out c)
  ended {d c} h hst := by
    obtain rfl := h.free (by simp [Carriage.homeward, hst])
    exact withdrawOk_of_out (by simp [Carriage.homeward, Carriage.endSounding, hst])
  meter {d c} h hst := by
    obtain rfl := h.free (by simp [Carriage.homeward, hst])
    exact withdrawOk_of_out rfl
  raiseHome _ := withdrawOk_raise _ _ fun _ => rfl
  onTo {d c x} h hst ho := by
    have hd : d = false := by
      cases d with
      | false => rfl
      | true => rw [h.raising rfl hst] at ho; exact absurd ho (by simp)
    subst hd
    exact withdrawOk_out rfl
  back _ _ := withdrawOk_callMove (fun _ => rfl) (fun _ => rfl) fun _ h => by simp at h

theorem holdLaw_closed : UnitClosed (fun _ c => HoldOk c) HoldLaw where
  rules := holdRules
  law h := (holdLaw_iff _).mp h
  cable _ h _ := (holdLaw_iff _).mpr h
  store {s _ _} hs _ := (holdLaw_iff _).mpr ((holdLaw_iff s).mp hs)

theorem withdrawLaw_closed : UnitClosed WithdrawOk WithdrawLaw where
  rules := withdrawRules
  law h := (withdrawLaw_iff _).mp h
  cable _ h _ := (withdrawLaw_iff _).mpr h
  store {s _ _} hs _ := (withdrawLaw_iff _).mpr ((withdrawLaw_iff s).mp hs)

/-- Settles O58: the controller's operations keep each law on its own. -/
theorem everyStepKeepsTheCarriageLaws : Obligations.EveryStepKeepsTheCarriageLaws :=
  fun s t h =>
    ⟨fun hw => withdrawLaw_closed.step withdrawLaw_reset (fun h => ⟨h.awaited, h.pending, h.demand, h.raising⟩) s t hw h,
      fun hw => holdLaw_closed.step holdLaw_reset (fun h => ⟨h.pending, fun ht => h.timer (by simpa using ht)⟩) s t hw h⟩

end Sys2Proof.Machine
end

section
/-! The rating store (chapters 4 and 5): the contest of an evaluation, the checks of a frame of points and of a sealed
list, the shift lists, the law of the store and the verbs. -/

namespace Sys2Proof.Machine

/-- A verb in a frame of its layout, on a command port that takes it, whose block answers in a known way. -/
theorem verb_answers {n : Nat} {code : Byte} {block : State → State × Answer} {s t : State} {c : ResultCode}
    {b : Body} (h : s.inReset = false) (hi : s.host.ignoring = false) (hn : n < 256) (hb : block s = (t, ⟨c, b⟩)) :
    transacted (takeVerb ⟨BitVec.ofNat 8 n, n⟩ n code block) s = .next (respond n ⟨c, code, b⟩ t) := by
  rw [verb_next h hi hn, hb]

/-! ## The contest (R68) -/

/-- R68: the order of a contest: effective time, then generation, then the lower slot number. -/
def contestKey (k : Fin 3) (r : RatingSlot) : ℕ ×ₗ ℕ ×ₗ (Fin 3)ᵒᵈ :=
  toLex (r.effective, toLex (r.generation.getD 0, OrderDual.toDual k))

theorem beats_iff (i : Fin 3) (a : RatingSlot) (j : Fin 3) (b : RatingSlot) :
    beats i a j b = true ↔ contestKey j b < contestKey i a := by
  simp only [beats, contestKey, Prod.Lex.toLex_lt_toLex, OrderDual.toDual_lt_toDual]
  split
  · next h => simp only [decide_eq_true_eq]; constructor <;> intro h' <;> omega
  · next h =>
    split
    · next hg => simp only [decide_eq_true_eq]; constructor <;> intro h' <;> omega
    · next hg => simp only [decide_eq_true_eq]; constructor <;> intro h' <;> omega

theorem wins_iff (t : Nat) (slots : Vector RatingSlot 3) (k : Fin 3) :
    wins t slots k = true ↔ contests t (slots.get k) = true ∧
      ∀ j, contests t (slots.get j) = true → contestKey j (slots.get j) ≤ contestKey k (slots.get k) := by
  simp only [wins, Bool.and_eq_true, List.all_eq_true, List.mem_finRange, Bool.not_eq_true', Bool.and_eq_false_iff,
    true_implies]
  refine and_congr_right fun _ => forall_congr' fun j => ?_
  rw [← not_lt, ← beats_iff]
  cases contests t (slots.get j) <;> simp

/-- R68: at most one slot wins. -/
theorem wins_unique {t : Nat} {slots : Vector RatingSlot 3} {j k : Fin 3} (hj : wins t slots j = true)
    (hk : wins t slots k = true) : j = k := by
  rw [wins_iff] at hj hk
  have e := le_antisymm (hk.2 j hj.1) (hj.2 k hk.1)
  simp only [contestKey, EmbeddingLike.apply_eq_iff_eq, Prod.mk.injEq] at e
  exact e.2.2

/-- R68: among contestants one wins. -/
theorem wins_exists {t : Nat} {slots : Vector RatingSlot 3} {j : Fin 3} (hj : contests t (slots.get j) = true) :
    ∃ k, wins t slots k = true := by
  obtain ⟨k, hk, hmax⟩ := Finset.exists_max_image (Finset.univ.filter fun k => contests t (slots.get k) = true)
    (fun k => contestKey k (slots.get k)) ⟨j, by simpa using hj⟩
  exact ⟨k, (wins_iff ..).mpr ⟨by simpa using hk, fun i hi => hmax i (by simpa using hi)⟩⟩

theorem find_wins_iff (t : Nat) (slots : Vector RatingSlot 3) (k : Fin 3) :
    (List.finRange 3).find? (wins t slots) = some k ↔ wins t slots k = true := by
  constructor
  · exact List.find?_some
  · intro hk
    cases hf : (List.finRange 3).find? (wins t slots) with
    | none => exact absurd hk (List.find?_eq_none.mp hf k (List.mem_finRange k))
    | some j => rw [wins_unique (List.find?_some hf) hk]

theorem any_eligible_iff (t : Nat) (slots : Vector RatingSlot 3) :
    slots.toList.any (eligible t) = true ↔ ∃ k, (slots.get k).state = .ready ∧ (slots.get k).effective ≤ t := by
  simp only [List.any_eq_true, Vector.mem_toList_iff, Vector.mem_iff_getElem, eligible, Bool.and_eq_true, beq_iff_eq,
    decide_eq_true_eq]
  constructor
  · rintro ⟨_, ⟨i, hi, rfl⟩, h⟩
    exact ⟨⟨i, hi⟩, h⟩
  · rintro ⟨k, h⟩
    exact ⟨_, ⟨k.val, k.isLt, rfl⟩, h⟩

/-- R68: what an evaluation makes of a store with an eligible slot, and of one without. -/
theorem evaluateStore_some {t : Nat} {st : RatingStore} (h : st.slots.toList.any (eligible t) = true) :
    evaluateStore t st = { st with
      inForce := (List.finRange 3).find? (wins t st.slots), slots := mapTable (evaluated t st.slots) st.slots } := if_pos h

theorem evaluateStore_none {t : Nat} {st : RatingStore} (h : st.slots.toList.any (eligible t) = false) :
    evaluateStore t st = st := if_neg (by simp [h])

theorem contests_of_inForce {t : Nat} {r : RatingSlot} (h : r.state = .inForce) : contests t r = true := by
  simp [contests, h]

/-- R68: after an evaluation exactly the winner is in force. -/
theorem evaluated_inForce_iff (t : Nat) (slots : Vector RatingSlot 3) (k : Fin 3) :
    (evaluated t slots k (slots.get k)).state = .inForce ↔ wins t slots k = true := by
  simp only [evaluated]
  split
  · next hw => split <;> simp_all
  · next hw =>
    split
    · next hc => simpa using hw
    · next hc => exact ⟨fun h => absurd (contests_of_inForce h) hc, fun h => absurd h hw⟩

theorem evaluated_fields (t : Nat) (slots : Vector RatingSlot 3) (k : Fin 3) (r : RatingSlot) :
    (evaluated t slots k r).points = r.points ∧ (evaluated t slots k r).shifts = r.shifts := by
  simp only [evaluated]
  (repeat' split) <;> exact ⟨rfl, rfl⟩

/-- Settles O34: the contest's winner is unique and exists among the contestants. -/
theorem theEvaluationTakesTheLatestRating : Obligations.TheEvaluationTakesTheLatestRating := by
  intro t st
  constructor
  · intro h
    refine evaluateStore_none (Bool.eq_false_iff.mpr fun hs => ?_)
    obtain ⟨k, hk⟩ := (any_eligible_iff t st.slots).mp hs
    exact h k hk
  · rintro ⟨j, hj⟩
    have hcj : contests t (st.slots.get j) = true := by simp [contests, eligible, hj.1, hj.2]
    obtain ⟨k, hk⟩ := wins_exists hcj
    obtain ⟨hck, hmax⟩ := (wins_iff ..).mp hk
    rw [evaluateStore_some ((any_eligible_iff ..).mpr ⟨j, hj⟩)]
    refine ⟨k, (find_wins_iff ..).mpr hk, ?_, hck, fun i => ⟨fun hi => ?_, fun hi => ⟨?_, fun hik => ?_⟩⟩⟩
    · simpa using (evaluated_inForce_iff t st.slots k).mpr hk
    · have hw : ¬ wins t st.slots i = true := fun h => by rw [((wins_iff ..).mp h).1] at hi; exact absurd hi (by simp)
      simp [evaluated, hw, hi]
    · have h := hmax i hi
      simp only [contestKey, Prod.Lex.toLex_le_toLex] at h
      omega
    · have hw : ¬ wins t st.slots i = true := fun h => hik (wins_unique h hk)
      simp [evaluated, hw, hi]

/-! ## Point lists (R63, R65) -/

/-- R63: a frame of points has no bad one exactly when each is in range and the stages rise from the one before. -/
theorem firstBadPoint_none (prev : Option Int) (i : Nat) (l : List PointField) :
    firstBadPoint prev i l = none ↔
      (∀ x ∈ l, stageOk (pointOf x).stage = true ∧ (pointOf x).discharge ≤ maxDischarge) ∧
        (l.map pointOf).IsChain (fun a b => a.stage < b.stage) ∧
          ∀ h ∈ prev, ∀ y ∈ (l.map pointOf).head?, h < y.stage := by
  induction l generalizing prev i with
  | nil => simp [firstBadPoint]
  | cons x rest ih =>
    simp only [firstBadPoint]
    split
    · next h =>
      simp only [Bool.or_eq_true, Bool.not_eq_true', decide_eq_true_eq] at h
      simp only [reduceCtorEq, false_iff, not_and]
      intro hr
      have := hr x (by simp)
      rcases h with h | h
      · rw [h] at this; exact absurd this.1 (by simp)
      · omega
    · next h =>
      simp only [Bool.or_eq_true, Bool.not_eq_true', decide_eq_true_eq, not_or, Bool.not_eq_false, not_lt] at h
      split
      · next hp =>
        obtain ⟨y, hy, hle⟩ := (Option.any_eq_true ..).mp hp
        simp only [reduceCtorEq, false_iff, not_and]
        intro _ _ hlt
        have := hlt y hy (pointOf x) (by simp)
        simp only [decide_eq_true_eq] at hle
        omega
      · next hp =>
        rw [ih]
        have hprev : ∀ y ∈ prev, y < (pointOf x).stage := fun y hy => by
          refine not_le.mp fun hle => hp ((Option.any_eq_true ..).mpr ⟨y, hy, by simpa using hle⟩)
        simp only [List.map_cons, List.isChain_cons, List.mem_cons, forall_eq_or_imp, List.head?_cons, Option.mem_def,
          Option.some.injEq, forall_eq']
        exact ⟨fun ⟨a, b, c⟩ => ⟨⟨h, a⟩, ⟨fun y hy => c y hy, b⟩, hprev⟩,
          fun ⟨⟨_, a⟩, ⟨c, b⟩, _⟩ => ⟨a, b, fun y hy => c y hy⟩⟩

theorem isChain_stage_iff {l : List Point} :
    l.IsChain (fun a b => a.stage < b.stage) ↔ l.Pairwise (fun a b => a.stage < b.stage) := by
  have : IsTrans Point fun a b => a.stage < b.stage := ⟨fun _ _ _ => lt_trans⟩
  exact List.isChain_iff_pairwise

/-- R63: points that pass the checks stand behind the ones held, rising. -/
theorem pairwise_points_append {l : List Point} {points : List PointField} (hl : l.Pairwise (fun a b => a.stage < b.stage))
    (hb : firstBadPoint (l.getLast?.map (·.stage)) 0 points = none) :
    (l ++ points.map pointOf).Pairwise (fun a b => a.stage < b.stage) := by
  obtain ⟨_, hchain, hlast⟩ := (firstBadPoint_none ..).mp hb
  rw [← isChain_stage_iff, List.isChain_append]
  refine ⟨isChain_stage_iff.mpr hl, hchain, fun x hx y hy => hlast x.stage ?_ y hy⟩
  rw [Option.mem_def] at hx
  simp [hx]

/-- R65: the first fall of a list behind a part whose discharge never falls. -/
theorem firstFall_append (i : Nat) (l : List Point) (a b : Point) (rest : List Point)
    (hl : (l ++ [a]).Pairwise (fun x y => x.discharge ≤ y.discharge)) (hb : b.discharge < a.discharge) :
    firstFall i (l ++ a :: b :: rest) = some (i + l.length + 1) := by
  induction l generalizing i with
  | nil => simp [firstFall, hb]
  | cons x l ih =>
    have hx := (List.pairwise_cons.mp hl).1
    have ih' := ih (i + 1) (List.pairwise_cons.mp hl).2
    cases l with
    | nil =>
      have := hx a (by simp)
      simp only [List.nil_append, List.cons_append] at ih' ⊢
      rw [firstFall, if_neg (by omega), ih']
      simp
    | cons y l =>
      have := hx y (by simp)
      simp only [List.cons_append] at ih' ⊢
      rw [firstFall, if_neg (by omega), ih']
      simp
      omega

/-- R65: a list whose discharge never falls has no fall. -/
theorem firstFall_none (i : Nat) {l : List Point} (hl : l.Pairwise (fun x y => x.discharge ≤ y.discharge)) :
    firstFall i l = none := by
  induction l generalizing i with
  | nil => rfl
  | cons a l ih =>
    obtain ⟨ha, hl⟩ := List.pairwise_cons.mp hl
    cases l with
    | nil => rfl
    | cons b rest => rw [firstFall, if_neg (by have := ha b (by simp); omega), ih _ hl]

/-! ## Shift lists (R79 to R82) -/

theorem hasShiftAt_iff (l : List Shift) (t : Nat) : hasShiftAt l t = true ↔ ∃ x ∈ l, x.time = t := by
  simp [hasShiftAt]

theorem hasShiftAt_false (l : List Shift) (t : Nat) : hasShiftAt l t = false ↔ ∀ x ∈ l, x.time ≠ t := by
  simp [hasShiftAt]

/-- R81: a placed record replaces the one of its time, or stands among the others. -/
theorem mem_shiftPlaced (l : List Shift) (x y : Shift) :
    y ∈ (shiftPlaced l x).1 ↔ y = x ∨ (y ∈ l ∧ y.time ≠ x.time) := by
  simp only [shiftPlaced]
  split
  · next h =>
    obtain ⟨z, hz, hzt⟩ := (hasShiftAt_iff l x.time).mp h
    simp only [List.mem_map]
    constructor
    · rintro ⟨w, hw, rfl⟩
      split
      · exact .inl rfl
      · next hne => exact .inr ⟨hw, hne⟩
    · rintro (rfl | ⟨hy, hne⟩)
      · exact ⟨z, hz, if_pos hzt⟩
      · exact ⟨y, hy, if_neg hne⟩
  · next h =>
    have hne := (hasShiftAt_false l x.time).mp (by simpa using h)
    have hmem : y ∈ l ↔ y ∈ l.takeWhile (fun y => decide (y.time < x.time)) ∨
        y ∈ l.dropWhile (fun y => decide (y.time < x.time)) := by
      rw [← List.mem_append, List.takeWhile_append_dropWhile]
    simp only [List.mem_append, List.mem_cons]
    constructor
    · rintro (h | rfl | h)
      · exact .inr ⟨hmem.mpr (.inl h), hne y (hmem.mpr (.inl h))⟩
      · exact .inl rfl
      · exact .inr ⟨hmem.mpr (.inr h), hne y (hmem.mpr (.inr h))⟩
    · rintro (rfl | ⟨h, _⟩)
      · exact .inr (.inl rfl)
      · exact (hmem.mp h).imp_right .inr

theorem length_shiftPlaced (l : List Shift) (x : Shift) :
    (shiftPlaced l x).1.length = if hasShiftAt l x.time then l.length else l.length + 1 := by
  simp only [shiftPlaced]
  split
  · simp
  · have := congrArg List.length (List.takeWhile_append_dropWhile (p := fun y : Shift => decide (y.time < x.time)) (l := l))
    simp only [List.length_append, List.length_cons] at this ⊢
    omega

/-- R79, R81: a placed record keeps the order of time. -/
theorem pairwise_shiftPlaced {l : List Shift} (x : Shift) (hl : l.Pairwise (fun a b => a.time < b.time)) :
    (shiftPlaced l x).1.Pairwise (fun a b => a.time < b.time) := by
  simp only [shiftPlaced]
  split
  · -- The times of the records do not change.
    have ht : ∀ y : Shift, (if y.time = x.time then x else y).time = y.time := fun y => by split <;> simp_all
    rw [List.pairwise_map]
    exact hl.imp fun h => by rwa [ht, ht]
  · next hno =>
    have hne := (hasShiftAt_false l x.time).mp (by simpa using hno)
    have hsplit := List.takeWhile_append_dropWhile (p := fun y : Shift => decide (y.time < x.time)) (l := l)
    have hpw := hl
    rw [← hsplit, List.pairwise_append] at hpw
    obtain ⟨htake, hdrop, hcross⟩ := hpw
    have hbefore : ∀ y ∈ l.takeWhile (fun y => decide (y.time < x.time)), y.time < x.time := fun y hy =>
      by simpa using List.mem_takeWhile_imp hy
    have hafter : ∀ y ∈ l.dropWhile (fun y => decide (y.time < x.time)), x.time < y.time := by
      intro y hy
      cases hd : l.dropWhile (fun y => decide (y.time < x.time)) with
      | nil => rw [hd] at hy; exact absurd hy (by simp)
      | cons z rest =>
        have hz : ¬ z.time < x.time := by
          have := List.head?_dropWhile_not (fun y : Shift => decide (y.time < x.time)) l
          rw [hd] at this
          simpa using this
        have hzl : z ∈ l := (List.dropWhile_suffix _).mem (hd ▸ List.mem_cons_self)
        have hxz : x.time < z.time := by have := hne z hzl; omega
        rw [hd] at hy hdrop
        rcases List.mem_cons.mp hy with rfl | hy
        · exact hxz
        · exact hxz.trans ((List.pairwise_cons.mp hdrop).1 y hy)
    rw [List.pairwise_append, List.pairwise_cons]
    refine ⟨htake, ⟨hafter, hdrop⟩, fun a ha b hb => ?_⟩
    rcases List.mem_cons.mp hb with rfl | hb
    · exact hbefore a ha
    · exact (hbefore a ha).trans (hafter b hb)

theorem shiftListLaw_placed {l : List Shift} {x : Shift} (hl : ShiftListLaw l) (hx : shiftOk x.shift = true)
    (hfit : hasShiftAt l x.time = true ∨ l.length < 12) : ShiftListLaw (shiftPlaced l x).1 := by
  obtain ⟨hlen, hord, hok⟩ := hl
  refine ⟨?_, pairwise_shiftPlaced x hord, fun y hy => ?_⟩
  · rw [length_shiftPlaced]
    split
    · exact hlen
    · next h => have := hfit.resolve_left h; omega
  · rcases (mem_shiftPlaced l x y).mp hy with rfl | ⟨hy, _⟩
    · exact hx
    · exact hok y hy

theorem shiftListLaw_filter {l : List Shift} (p : Shift → Bool) (hl : ShiftListLaw l) : ShiftListLaw (l.filter p) :=
  ⟨(List.length_filter_le p l).trans hl.1, hl.2.1.sublist List.filter_sublist, fun x hx => hl.2.2 x (List.mem_of_mem_filter hx)⟩

/-! ## O59: the law of the store -/

/-- R60, R79: the lists of a slot are lawful. -/
def SlotLaw (r : RatingSlot) : Prop := PointListLaw r.points ∧ ShiftListLaw r.shifts

theorem ratingLaw_iff (s : State) :
    RatingLaw s ↔ InForceLaw s.ratings ∧ ∀ k, SlotLaw (s.ratings.slots.get k) :=
  ⟨fun h => ⟨h.inForce, fun k => ⟨h.points k, h.shifts k⟩⟩, fun h => ⟨h.1, fun k => (h.2 k).1, fun k => (h.2 k).2⟩⟩

theorem ratingLaw_congr {s t : State} (hs : RatingLaw s) (h : t.ratings = s.ratings) : RatingLaw t := by
  rw [ratingLaw_iff] at hs ⊢
  rwa [h]

theorem pointListLaw_nil : PointListLaw [] := ⟨by simp, .nil, by simp⟩
theorem shiftListLaw_nil : ShiftListLaw [] := ⟨by simp, .nil, by simp⟩
theorem slotLaw_reset : SlotLaw .reset := ⟨pointListLaw_nil, shiftListLaw_nil⟩

/-- R60: a slot rewritten lawfully, with the named slot kept in step. -/
theorem ratingLaw_put {s t : State} {k : Fin 3} {r : RatingSlot} (hs : RatingLaw s) (hr : SlotLaw r)
    (hslots : t.ratings.slots = putAt s.ratings.slots k r)
    (hin : (t.ratings.inForce = s.ratings.inForce ∧ (r.state = .inForce ↔ (s.ratings.slots.get k).state = .inForce)) ∨
      (t.ratings.inForce = none ∧ s.ratings.inForce = some k ∧ r.state ≠ .inForce)) : RatingLaw t := by
  rw [ratingLaw_iff] at hs ⊢
  refine ⟨fun j => ?_, fun j => ?_⟩
  · have hj := hs.1 j
    rw [hslots, putAt_get]
    rcases hin with ⟨hsame, hstate⟩ | ⟨hnone, hwas, hstate⟩
    · rw [hsame, hj]
      split
      · next e => rw [e, hstate]
      · rfl
    · rw [hnone]
      split
      · simp [hstate]
      · next e =>
        rw [← hj, hwas]
        simp [Ne.symm e]
  · rw [hslots, putAt_get]
    split
    · exact hr
    · exact hs.2 j

theorem ratingLaw_putSlot {s : State} {k : Fin 3} {r : RatingSlot} (hs : RatingLaw s) (hr : SlotLaw r)
    (hin : r.state = .inForce ↔ (s.ratings.slots.get k).state = .inForce) : RatingLaw (putSlot k r s) :=
  ratingLaw_put hs hr rfl (.inl ⟨rfl, hin⟩)

theorem ratingLaw_evaluate (t : Nat) {s : State} (hs : RatingLaw s) : RatingLaw (evaluateRatings t s) := by
  refine ratingLaw_congr (s := { s with ratings := evaluateStore t s.ratings }) ?_ (by simp [evaluateRatings])
  rw [ratingLaw_iff] at hs ⊢
  cases h : s.ratings.slots.toList.any (eligible t) with
  | false =>
    rw [evaluateStore_none h]
    exact hs
  | true =>
    rw [evaluateStore_some h]
    refine ⟨fun k => ?_, fun k => ?_⟩
    · simp only [mapTable_get]
      rw [find_wins_iff, evaluated_inForce_iff]
    · simp only [mapTable_get]
      obtain ⟨hp, hsh⟩ := evaluated_fields t s.ratings.slots k (s.ratings.slots.get k)
      exact ⟨hp ▸ (hs.2 k).1, hsh ▸ (hs.2 k).2⟩

theorem ratingLaw_publish (x : StageSample) {s : State} (hs : RatingLaw s) : RatingLaw (publishSample x s) :=
  ratingLaw_congr (ratingLaw_evaluate x.time hs) (by simp [publishSample, publishFlow])

theorem ratingLaw_handRound (recs : List ReadingRecord) {s : State} (hs : RatingLaw s) : RatingLaw (handRound recs s) := by
  have hm : ∀ b x u, RatingLaw u → RatingLaw (markSample b x u) := fun b x u hu => ratingLaw_congr hu (by simp [markSample])
  simp only [handRound]
  split
  · exact ratingLaw_publish _ (hm _ _ _ (ratingLaw_congr hs rfl))
  · exact ratingLaw_congr hs rfl

theorem ratingLaw_writeShift (k : Fin 3) (x : Shift) {s : State} (hs : RatingLaw s) : RatingLaw (writeShift k x s).1 := by
  simp only [writeShift]
  split
  · exact hs
  · next hx =>
    split
    · exact hs
    · next hfit =>
      have hsk := ((ratingLaw_iff s).mp hs).2 k
      refine ratingLaw_putSlot hs ⟨hsk.1, shiftListLaw_placed hsk.2 (by simpa using hx) ?_⟩ .rfl
      simp only [Bool.and_eq_true, Bool.not_eq_true', decide_eq_true_eq, not_and, not_le] at hfit
      cases h : hasShiftAt (s.ratings.slots.get k).shifts x.time with
      | true => exact .inl rfl
      | false => exact .inr (hfit h)

theorem ratingLaw_begin (slot : Byte) (e : Word) (a : Half) {s : State} (hs : RatingLaw s) :
    RatingLaw (ratingBegin slot e a s).1 := by
  simp only [ratingBegin]
  (repeat' split) <;> try exact hs
  next h => exact ratingLaw_putSlot hs slotLaw_reset (by simp [not_not.mp h])

theorem ratingLaw_points (slot : Byte) (l : List PointField) {s : State} (hs : RatingLaw s) :
    RatingLaw (ratingPoints slot l s).1 := by
  simp only [ratingPoints]
  (repeat' split) <;> try exact hs
  next k _ _ hst _ _ hb hfit =>
    obtain ⟨⟨_, hord, hok⟩, hsh⟩ := ((ratingLaw_iff s).mp hs).2 k
    refine ratingLaw_putSlot hs ⟨⟨?_, pairwise_points_append hord hb, fun x hx => ?_⟩, hsh⟩ .rfl
    · simp only [List.length_append, List.length_map, maxPoints] at hfit ⊢
      omega
    · rcases List.mem_append.mp hx with hx | hx
      · exact hok x hx
      · obtain ⟨y, hy, rfl⟩ := List.mem_map.mp hx
        exact ((firstBadPoint_none ..).mp hb).1 y hy

theorem ratingLaw_finish (slot : Byte) {s : State} (hs : RatingLaw s) : RatingLaw (ratingFinish slot s).1 := by
  simp only [ratingFinish]
  (repeat' split) <;> try exact hs
  · next k _ _ _ _ _ _ _ => exact ratingLaw_putSlot hs (((ratingLaw_iff s).mp hs).2 k) .rfl
  · next k _ _ hst _ _ =>
    have hsk := ((ratingLaw_iff s).mp hs).2 k
    exact ratingLaw_put (r := { s.ratings.slots.get k with
      state := .ready, generation := some s.ratings.nextGeneration, checkDetail := none }) hs hsk rfl (.inl ⟨rfl, by simp [hst]⟩)

theorem ratingLaw_retire (slot : Byte) {s : State} (hs : RatingLaw s) : RatingLaw (ratingRetire slot s).1 := by
  simp only [ratingRetire]
  (repeat' split) <;> try exact hs
  · next k _ _ hst => exact ratingLaw_putSlot hs slotLaw_reset (by simp [hst, RatingSlot.reset])
  · next k _ _ hst => exact ratingLaw_putSlot hs slotLaw_reset (by simp [hst, RatingSlot.reset])
  · next k _ _ hst => exact ratingLaw_putSlot hs slotLaw_reset (by simp [hst, RatingSlot.reset])
  · next k _ _ hst _ =>
    exact ratingLaw_put hs slotLaw_reset rfl (.inr ⟨rfl, (hs.inForce k).mpr hst, by simp [RatingSlot.reset]⟩)

theorem ratingLaw_shiftPut (slot : Byte) (t : Word) (v : Half) {s : State} (hs : RatingLaw s) :
    RatingLaw (shiftPut slot t v s).1 := by
  simp only [shiftPut]
  (repeat' split) <;> first | exact hs | exact ratingLaw_writeShift _ _ hs

theorem ratingLaw_shiftRemove (slot : Byte) (t : Word) {s : State} (hs : RatingLaw s) :
    RatingLaw (shiftRemove slot t s).1 := by
  simp only [shiftRemove]
  (repeat' split) <;> try exact hs
  next k _ _ _ =>
    have hsk := ((ratingLaw_iff s).mp hs).2 k
    exact ratingLaw_putSlot hs ⟨hsk.1, shiftListLaw_filter _ hsk.2⟩ .rfl

theorem ratingLaw_adoptInto (n : Fin 4) (g : Gauging) (k : Fin 3) (v : Int) {s : State} (hs : RatingLaw s) :
    RatingLaw (adoptInto n g k v s).1 := by
  simp only [adoptInto]
  split
  · exact ratingLaw_congr (ratingLaw_writeShift k { time := g.midpoint, shift := v } hs) (by simp)
  · exact hs

theorem ratingLaw_adopt (slot : Byte) (v : Option Half) {s : State} (hs : RatingLaw s) :
    RatingLaw (gaugingAdopt slot v s).1 := by
  simp only [gaugingAdopt]
  (repeat' split) <;> first | exact hs | exact ratingLaw_adoptInto _ _ _ _ hs

theorem ratingLaw_effect {c : Instr} (hr : Touch.of c ≠ .reset) {s : State} (hs : RatingLaw s) :
    RatingLaw (effectOf c s) := by
  cases hk : Touch.of c with
  | reset => exact absurd hk hr
  | host => obtain ⟨_, _, e⟩ := frame_of hk s; rw [e]; exact ratingLaw_congr hs rfl
  | selector => obtain ⟨_, e⟩ := frame_of hk s; rw [e]; exact ratingLaw_congr hs rfl
  | watches => obtain ⟨_, _, _, _, _, e⟩ := frame_of hk s; rw [e]; exact ratingLaw_congr hs rfl
  | cableway => obtain ⟨_, _, _, _, e⟩ := frame_of hk s; rw [e]; exact ratingLaw_congr hs rfl
  | line =>
    exact LineRun.elim (frame_of hk s) (fun s v q b h hs => ratingLaw_congr hs rfl) (fun recs s hs => ratingLaw_handRound recs hs) hs
  | adoption =>
    cases c with
    | gaugingAdopt f k v => exact ratingLaw_adopt k v hs
    | characterCompletion line l k => cases line <;> simp [Touch.of] at hk
    | _ => simp [Touch.of] at hk
  | ratings =>
    cases c with
    | ratingBegin f k e a => exact ratingLaw_begin k e a hs
    | ratingPoints f k l => exact ratingLaw_points k l hs
    | ratingFinish f k => exact ratingLaw_finish k hs
    | ratingRead f k i =>
      have e : effectOf (.ratingRead f k i) s = s := ratingRead_effect k i s
      rwa [e]
    | ratingRetire f k => exact ratingLaw_retire k hs
    | shiftPut f k t v => exact ratingLaw_shiftPut k t v hs
    | shiftRemove f k t => exact ratingLaw_shiftRemove k t hs
    | shiftRead f k =>
      have e : effectOf (.shiftRead f k) s = s := shiftRead_effect k s
      rwa [e]
    | flowRead => exact hs
    | characterCompletion line l k => cases line <;> simp [Touch.of] at hk
    | _ => simp [Touch.of] at hk

/-- Settles O59: every command that writes a slot writes a lawful one and keeps the slot in force in step. -/
theorem everyStepKeepsTheRatingLaw : Obligations.EveryStepKeepsTheRatingLaw :=
  fun s t hs h => step_keeps_law RatingLaw ratingLaw_reset (fun _ hs => ratingLaw_congr hs rfl)
    (fun _ _ _ _ _ _ _ hs => ratingLaw_congr hs rfl) (fun _ _ hr hs => ratingLaw_effect hr hs) s t hs h

/-! ## The verbs of ratings and shifts -/

/-- R62: RATING_BEGIN of an EMPTY slot. -/
theorem ratingBegin_empty {slot : Byte} {k : Fin 3} {s : State} (hk : keyOf 3 slot = some k) (e : Word) {a : Half}
    (ha : a.toNat ≤ 5000) (hs : (s.ratings.slots.get k).state = .empty) :
    ratingBegin slot e a s = (putSlot k { RatingSlot.reset with
        state := .loading, effective := e.toNat, allowance := a.toNat } s,
      ⟨.ok, .rating s.ratings.nextGeneration s.ratings.inForce { RatingSlot.reset with
        state := .loading, effective := e.toNat, allowance := a.toNat } 0⟩) := by
  simp [ratingBegin, hk, hs, Nat.not_lt.mpr ha]

/-- R63: RATING_POINTS of a lawful frame that fits. -/
theorem ratingPoints_takes {slot : Byte} {k : Fin 3} {s : State} {points : List PointField} (hk : keyOf 3 slot = some k)
    (h1 : 1 ≤ points.length) (h8 : points.length ≤ 8) (hs : (s.ratings.slots.get k).state = .loading)
    (hb : firstBadPoint ((s.ratings.slots.get k).points.getLast?.map (·.stage)) 0 points = none)
    (hfit : (s.ratings.slots.get k).points.length + points.length ≤ 48) :
    ∃ body, ratingPoints slot points s = (putSlot k { s.ratings.slots.get k with
      points := (s.ratings.slots.get k).points ++ points.map pointOf } s, ⟨.ok, body⟩) := by
  have hlen : ¬ (points.length = 0 ∨ 8 < points.length) := by omega
  have hmax : ¬ maxPoints < (s.ratings.slots.get k).points.length + points.length := by simp only [maxPoints]; omega
  simp only [ratingPoints, hk, hs, if_neg hlen, hb, if_neg hmax]
  exact ⟨_, rfl⟩

/-- R63: a frame whose points rise behind the last one held has no bad point. -/
theorem firstBadPoint_of_pairwise {last : Option Point} {points : List PointField}
    (hok : ∀ x ∈ points, stageOk x.stage.toInt = true ∧ x.discharge.toNat ≤ 20000000)
    (hp : (last.toList ++ points.map pointOf).Pairwise (fun a b => a.stage < b.stage)) :
    firstBadPoint (last.map (·.stage)) 0 points = none := by
  obtain ⟨_, hpoints, hcross⟩ := List.pairwise_append.mp hp
  refine (firstBadPoint_none ..).mpr ⟨hok, isChain_stage_iff.mpr hpoints, fun h hh y hy => ?_⟩
  obtain ⟨z, hz, rfl⟩ := Option.map_eq_some_iff.mp hh
  exact hcross z (by simp [hz]) y (List.mem_of_mem_head? hy)

/-- R65, R66: RATING_FINISH of a loading slot, by the check. -/
theorem ratingFinish_fails {slot : Byte} {k : Fin 3} {s : State} {c : CheckCause} {i : Nat} (hk : keyOf 3 slot = some k)
    (hs : (s.ratings.slots.get k).state = .loading) (hc : ratingCheck (s.ratings.slots.get k).points = some (c, i)) :
    ratingFinish slot s =
      (putSlot k { s.ratings.slots.get k with checkDetail := some (c, i) } s, ⟨.checkFailed, .checkDetail c i⟩) := by
  simp [ratingFinish, hk, hs, hc]

theorem ratingFinish_seals {slot : Byte} {k : Fin 3} {s : State} (hk : keyOf 3 slot = some k)
    (hs : (s.ratings.slots.get k).state = .loading) (hc : ratingCheck (s.ratings.slots.get k).points = none) :
    ratingFinish slot s =
      ({ s with ratings := { s.ratings with
          nextGeneration := generationAfter s.ratings.nextGeneration
          slots := putAt s.ratings.slots k { s.ratings.slots.get k with
            state := .ready, generation := some s.ratings.nextGeneration, checkDetail := none } } },
        ⟨.ok, .sealed k s.ratings.nextGeneration (s.ratings.slots.get k).effective (s.ratings.slots.get k).points.length⟩) := by
  simp [ratingFinish, hk, hs, hc]

theorem ratingCheck_short {l : List Point} (h : l.length < 2) : ratingCheck l = some (.tooFewPoints, l.length) := if_pos h

theorem ratingCheck_long {l : List Point} (h : 2 ≤ l.length) :
    ratingCheck l = (firstFall 0 l).map fun i => (.qDecreasing, i) := if_neg (by omega)

/-- Settles O28: each verb of a loading by the check it meets. -/
theorem aRatingIsLoadedAndSealed : Obligations.ARatingIsLoadedAndSealed := by
  intro slot k s h hi hslot
  have hk := keyOf_eq_some hslot
  refine ⟨fun e a ha hs => ⟨_, rfl, ?_⟩, fun points h1 h8 hs hok hp hfit => ?_, fun hs h2 hp => ?_, fun hs h2 => ?_,
    fun l a b rest hs hl hp hb => ?_⟩
  · exact verb_answers (n := 8) h hi (by decide) (ratingBegin_empty hk e ha hs)
  · obtain ⟨body, hr⟩ := ratingPoints_takes hk h1 h8 hs (firstBadPoint_of_pairwise hok hp) hfit
    exact ⟨body, verb_answers h hi (by omega) hr⟩
  · have hc : ratingCheck (s.ratings.slots.get k).points = none := by simp [ratingCheck_long h2, firstFall_none 0 hp]
    exact verb_answers (n := 2) h hi (by decide) (ratingFinish_seals hk hs hc)
  · exact verb_answers (n := 2) h hi (by decide) (ratingFinish_fails hk hs (ratingCheck_short h2))
  · have hc : ratingCheck (s.ratings.slots.get k).points = some (.qDecreasing, l.length + 1) := by
      rw [hl, ratingCheck_long (by simp; omega), firstFall_append 0 l a b rest hp hb]
      simp
    exact verb_answers (n := 2) h hi (by decide) (ratingFinish_fails hk hs hc)

theorem isOpen_iff (x : GaugingState) : x.isOpen = true ↔ x = .running ∨ x = .suspended := by cases x <;> decide

/-- Settles O29: RATING_RETIRE by the state of the slot. -/
theorem ratingsAreReadAndRetired : Obligations.RatingsAreReadAndRetired := by
  intro slot first k s h hi hslot
  have hk := keyOf_eq_some hslot
  have retired : ∀ {t : State} {c : ResultCode} {b : Body}, ratingRetire slot s = (t, ⟨c, b⟩) →
      exec (.ratingRetire ⟨2, 2⟩ slot) s = .next (respond 2 ⟨c, 0x34, b⟩ t) :=
    fun hr => verb_answers (n := 2) h hi (by decide) hr
  refine ⟨fun hs hf => ?_, fun hs => retired ?_, fun hs hf => retired ?_, fun hs => ⟨?_, fun hg => ?_⟩⟩
  · refine verb_answers (n := 3) h hi (by decide) ?_
    simp [ratingRead, hk, hs, Nat.not_lt.mpr hf]
  · simp [ratingRetire, hk, hs, refuse]
  · cases hst : (s.ratings.slots.get k).state with
    | empty => exact absurd hst hs
    | inForce => exact absurd hst hf
    | loading | ready | superseded => simp [ratingRetire, hk, hst, putSlot]
  · rintro ⟨n, g, hg, ho⟩
    have hopen := (gaugingOpen_iff s).mpr ⟨n, g, hg, (isOpen_iff _).mpr ho⟩
    exact retired (by simp [ratingRetire, hk, hs, hopen, refuse])
  · have hclosed : gaugingOpen s = false := by
      refine Bool.eq_false_iff.mpr fun ho => ?_
      obtain ⟨n, g, hn, ho⟩ := (gaugingOpen_iff s).mp ho
      rcases (isOpen_iff _).mp ho with e | e
      · exact (hg n g hn).1 e
      · exact (hg n g hn).2 e
    have hr : ratingRetire slot s = (addMember .ratingSwap { s with ratings := { s.ratings with
        inForce := none, slots := putAt s.ratings.slots k .reset } }, ⟨.ok, .slotState .empty⟩) := by
      simp [ratingRetire, hk, hs, hclosed]
    exact retired hr

theorem shiftOk_iff (v : Int) : shiftOk v = true ↔ -2000 ≤ v ∧ v ≤ 2000 := by simp [shiftOk, inRange]

/-- R80: the write of a shift that the list has room for, and of one that it has not. -/
theorem writeShift_takes {k : Fin 3} {x : Shift} {s : State} (hx : shiftOk x.shift = true)
    (hfit : (s.ratings.slots.get k).shifts.length < 12 ∨ ∃ y ∈ (s.ratings.slots.get k).shifts, y.time = x.time) :
    ∃ body, writeShift k x s =
      (putSlot k { s.ratings.slots.get k with shifts := (shiftPlaced (s.ratings.slots.get k).shifts x).1 } s, ⟨.ok, body⟩) := by
  have hroom : (!hasShiftAt (s.ratings.slots.get k).shifts x.time &&
      decide (12 ≤ (s.ratings.slots.get k).shifts.length)) = false := by
    rcases hfit with hfit | hfit
    · simp [Nat.not_le.mpr hfit]
    · simp [(hasShiftAt_iff ..).mpr hfit]
  exact ⟨_, by simp only [writeShift, hx, hroom, Bool.not_true, if_false, Bool.false_eq_true]; rfl⟩

theorem writeShift_full {k : Fin 3} {x : Shift} {s : State} (hx : shiftOk x.shift = true)
    (hno : ∀ y ∈ (s.ratings.slots.get k).shifts, y.time ≠ x.time) (hfull : 12 ≤ (s.ratings.slots.get k).shifts.length) :
    writeShift k x s = (s, ⟨.full, .nil⟩) := by
  simp [writeShift, hx, (hasShiftAt_false ..).mpr hno, hfull, refuse]

theorem shiftPut_writes {slot : Byte} {k : Fin 3} {s : State} {v : Half} (hk : keyOf 3 slot = some k) (t : Word)
    (hv : shiftOk v.toInt = true) (hs : (s.ratings.slots.get k).state ≠ .empty) :
    shiftPut slot t v s = writeShift k ⟨t.toNat, v.toInt⟩ s := by
  simp [shiftPut, hk, hv, hs]

/-- Settles O30: the lists by the records placed and filtered. -/
theorem shiftListsAreEdited : Obligations.ShiftListsAreEdited := by
  intro slot time shift k s h hi hslot hs
  have hk := keyOf_eq_some hslot
  refine ⟨fun hlo hhi hfit => ?_, fun hno => ⟨?_, fun hfull hlo hhi => ?_⟩, fun hsome => ?_, ?_⟩
  · have hv := (shiftOk_iff _).mpr ⟨hlo, hhi⟩
    obtain ⟨body, hw⟩ := writeShift_takes (x := ⟨time.toNat, shift.toInt⟩) hv hfit
    exact ⟨_, body, verb_answers (n := 8) h hi (by decide) ((shiftPut_writes hk time hv hs).trans hw),
      mem_shiftPlaced _ _⟩
  · refine verb_answers (n := 6) h hi (by decide) ?_
    simp [shiftRemove, hk, hs, (hasShiftAt_false ..).mpr hno, refuse]
  · have hv := (shiftOk_iff _).mpr ⟨hlo, hhi⟩
    exact verb_answers (n := 8) h hi (by decide)
      ((shiftPut_writes hk time hv hs).trans (writeShift_full (x := ⟨time.toNat, shift.toInt⟩) hv hno hfull))
  · refine ⟨(s.ratings.slots.get k).shifts.filter fun x => x.time != time.toNat,
      verb_answers (n := 6) h hi (by decide) ?_, List.filter_sublist, fun x => by simp⟩
    simp [shiftRemove, hk, hs, (hasShiftAt_iff ..).mpr hsome, putSlot]
  · refine verb_answers (n := 2) h hi (by decide) ?_
    simp [shiftRead, hk, hs]

end Sys2Proof.Machine
end

section
/-! The watch unit (chapter 6): the law of a watch, what its lines and its demand say, the law of every step, and the
verbs. -/

namespace Sys2Proof.Machine

/-! ## The law of a watch (R99, R105) -/

/-- A watch whose working fields are rewritten lawfully keeps its law. -/
theorem WatchLaw.rewrite {w : Watch} (h : WatchLaw w) {st : WatchState} {n : Nat} {a : Bool} {rs : Option Nat}
    {lo : Option Int} {lc : WatchClass} (hp : st = .pending → n < w.raise) (he : st = .easing → n < w.clear)
    (hn : st ≠ .pending → st ≠ .easing → n = 0) (ha : st = .acked → a = true)
    (hu : st ≠ .acked → st ≠ .easing → a = false) :
    WatchLaw { w with state := st, count := n, acked := a, raisedSince := rs, lastOperand := lo, lastClass := lc } :=
  ⟨h.raise, h.clear, h.level, hp, he, hn, ha, hu⟩

theorem WatchLaw.raiseAt {w : Watch} (h : WatchLaw w) (t : Nat) (hs : w.state = .idle ∨ w.state = .pending) :
    WatchLaw (w.raiseAt t) :=
  h.rewrite (by simp) (by simp) (by simp) (by simp) fun _ _ => h.unacked (by rcases hs with e | e <;> simp [e])
    (by rcases hs with e | e <;> simp [e])

theorem WatchLaw.cleared {w : Watch} (h : WatchLaw w) : WatchLaw w.cleared :=
  h.rewrite (by simp) (by simp) (by simp) (by simp) (by simp)

theorem WatchLaw.runQuiet {w : Watch} (h : WatchLaw w) (n : Nat) : WatchLaw (w.runQuiet n) := by
  simp only [Watch.runQuiet]
  split
  · exact h.cleared
  · next hn => exact h.rewrite (by simp) (fun _ => by omega) (by simp) (by simp) (by simp)

theorem WatchLaw.moveLow {w : Watch} (h : WatchLaw w) (t n : Nat) (c : WatchClass)
    (hs : w.state = .idle ∨ w.state = .pending) : WatchLaw (w.moveLow t n c) := by
  have hu : w.acked = false := h.unacked (by rcases hs with e | e <;> simp [e]) (by rcases hs with e | e <;> simp [e])
  cases c with
  | beyond =>
    simp only [Watch.moveLow, Watch.runBeyond]
    split
    · exact h.raiseAt t hs
    · next hn => exact h.rewrite (fun _ => by omega) (by simp) (by simp) (by simp) fun _ _ => hu
  | none | neither | quiet | absent => exact h.rewrite (by simp) (by simp) (by simp) (by simp) fun _ _ => hu

theorem WatchLaw.moveRaised {w : Watch} (h : WatchLaw w) (c : WatchClass) (hs : w.state = .active ∨ w.state = .acked) :
    WatchLaw (w.moveRaised c) := by
  cases c with
  | quiet => exact h.runQuiet 1
  | none | beyond | neither | absent =>
    exact h.rewrite (fun e => by rcases hs with e' | e' <;> simp [e'] at e) (fun e => by rcases hs with e' | e' <;> simp [e'] at e)
      (fun _ _ => rfl) h.acked h.unacked

theorem WatchLaw.moveEasing {w : Watch} (h : WatchLaw w) (c : WatchClass) : WatchLaw (w.moveEasing c) := by
  cases c with
  | beyond => cases ha : w.acked <;> exact h.rewrite (by simp [ha]) (by simp [ha]) (by simp) (by simp [ha]) (by simp [ha])
  | quiet => exact h.runQuiet _
  | none | neither | absent => exact h

theorem WatchLaw.moveLost {w : Watch} (h : WatchLaw w) (t : Nat) : WatchLaw (w.moveLost t) := by
  cases hs : w.state with
  | idle => simp only [Watch.moveLost, hs]; exact h.raiseAt t (.inl hs)
  | pending => simp only [Watch.moveLost, hs]; exact h.raiseAt t (.inr hs)
  | active | acked => simp only [Watch.moveLost, hs]; exact h
  | easing =>
    simp only [Watch.moveLost, hs]
    split
    · exact h
    · next ha => exact h.rewrite (by simp) (by simp) (by simp) (by simp) fun _ _ => by simpa using ha

theorem WatchLaw.move {w : Watch} (h : WatchLaw w) (t : Nat) (o : Option Int) : WatchLaw (w.move t o) := by
  cases o with
  | none =>
    simp only [Watch.move]
    split
    · exact h.moveLost t
    · exact h
  | some v =>
    cases hs : w.state with
    | idle => simp only [Watch.move, hs]; exact h.moveLow t _ _ (.inl hs)
    | pending => simp only [Watch.move, hs]; exact h.moveLow t _ _ (.inr hs)
    | active => simp only [Watch.move, hs]; exact h.moveRaised _ (.inl hs)
    | acked => simp only [Watch.move, hs]; exact h.moveRaised _ (.inr hs)
    | easing => simp only [Watch.move, hs]; exact h.moveEasing _

/-- R102: taking a flow sample keeps the law of the watch. -/
theorem WatchLaw.take {w : Watch} (h : WatchLaw w) (x : FlowSample) : WatchLaw (w.take x) := by
  have hm := h.move x.sample.time (w.subject.operand x)
  exact ⟨hm.raise, hm.clear, hm.level, hm.pending, hm.easing, hm.still, hm.acked, hm.unacked⟩

theorem clampNat_eq (lo hi v : Nat) (h : lo ≤ hi) : clampNat lo hi v = max lo (min hi v) := by
  simp only [clampNat]
  split
  · omega
  · split <;> omega

/-- R110: what the checks of WATCH_PUT let through. -/
theorem watchOf_some {su di : Byte} {th re : Word} {ra cl le li wi ol : Byte} {w : Watch}
    (h : watchOf su di th re ra cl le li wi ol = some w) :
    ∃ sub dir wd o, 1 ≤ le.toNat ∧ le.toNat ≤ 4 ∧
      w = .installed sub dir th.toInt re.toInt (clampNat 1 60 ra.toNat) (clampNat 1 60 cl.toNat) le.toNat li wd o := by
  simp only [watchOf] at h
  split at h
  · next sub dir wd o _ _ _ _ =>
    split at h
    · exact absurd h (by simp)
    · next hle =>
      split at h
      · exact absurd h (by simp)
      · split at h
        · exact absurd h (by simp)
        · exact ⟨sub, dir, wd, o, by omega, by omega, (Option.some.inj h).symm⟩
  · exact absurd h (by simp)

theorem watchOf_law {su di : Byte} {th re : Word} {ra cl le li wi ol : Byte} {w : Watch}
    (h : watchOf su di th re ra cl le li wi ol = some w) : WatchLaw w := by
  obtain ⟨sub, dir, wd, o, h1, h4, rfl⟩ := watchOf_some h
  constructor <;> simp only [Watch.installed, clampNat_eq _ _ _ (show 1 ≤ 60 by decide)] <;> first | omega | simp

/-- R108: an acknowledgement keeps the law of the watch. -/
theorem WatchLaw.acknowledged {w v : Watch} (h : WatchLaw w) (hv : w.acknowledged = some v) : WatchLaw v := by
  cases hs : w.state with
  | idle | pending | acked => simp [Watch.acknowledged, hs] at hv
  | active =>
    simp only [Watch.acknowledged, hs, Option.some.injEq] at hv
    subst hv
    exact h.rewrite (by simp) (by simp) (fun _ _ => h.still (by simp [hs]) (by simp [hs])) (by simp) (by simp)
  | easing =>
    simp only [Watch.acknowledged, hs, Option.ite_none_left_eq_some, Option.some.injEq] at hv
    obtain ⟨_, rfl⟩ := hv
    exact h.rewrite (by simp) (fun _ => h.easing hs) (by simp) (by simp) (by simp [hs])

/-! ## Lines and demand (R115, R117) -/

theorem mem_watches (u : WatchUnit) (w : Watch) : w ∈ u.watches ↔ ∃ k, u.table.get k = some w := by
  simp only [WatchUnit.watches, List.mem_filterMap, id_eq, exists_eq_right, Vector.mem_toList_iff, Vector.mem_iff_getElem]
  constructor
  · rintro ⟨i, hi, h⟩
    exact ⟨⟨i, hi⟩, h⟩
  · rintro ⟨k, h⟩
    exact ⟨k.val, k.isLt, h⟩

/-- A bit is set in the union of a list of sets when it is set in one of them. -/
theorem getLsbD_foldl_or {α : Type} {n : Nat} (f : α → BitVec n) (l : List α) (acc : BitVec n) (i : Nat) :
    (l.foldl (fun acc a => acc ||| f a) acc).getLsbD i = true ↔
      acc.getLsbD i = true ∨ ∃ a ∈ l, (f a).getLsbD i = true := by
  induction l generalizing acc with
  | nil => simp
  | cons a l ih => simp [ih, or_assoc]

theorem linesNow_iff (u : WatchUnit) (i : Nat) :
    u.linesNow.getLsbD i = true ↔ ∃ k w, u.table.get k = some w ∧ (w.drives u.silenceable).getLsbD i = true := by
  have h0 : (0 : Byte).getLsbD i ≠ true := by simp
  rw [WatchUnit.linesNow, getLsbD_foldl_or, or_iff_right h0]
  simp only [mem_watches]
  exact ⟨fun ⟨w, ⟨k, hk⟩, h⟩ => ⟨k, w, hk, h⟩, fun ⟨k, w, hk, h⟩ => ⟨w, ⟨k, hk⟩, h⟩⟩

theorem demandNow_iff (u : WatchUnit) :
    u.demandNow = true ↔ ∃ k w, u.table.get k = some w ∧ w.withdraw = true ∧ w.state.raised = true := by
  simp only [WatchUnit.demandNow, List.any_eq_true, mem_watches, Bool.and_eq_true]
  exact ⟨fun ⟨w, ⟨k, hk⟩, h⟩ => ⟨k, w, hk, h⟩, fun ⟨k, w, hk, h⟩ => ⟨w, ⟨k, hk⟩, h⟩⟩

/-- R115: the lines of one watch, by its state. -/
theorem drives_iff (w : Watch) (set : Byte) (n : Fin 8) : (w.drives set).getLsbD n.val = true ↔
    w.lines.getLsbD n.val = true ∧ (w.state = .active ∨ (w.state = .easing ∧ w.acked = false) ∨
      ((w.state = .acked ∨ (w.state = .easing ∧ w.acked = true)) ∧ set.getLsbD n.val = false)) := by
  have hn := n.isLt
  cases hs : w.state with
  | idle | pending | active => simp [Watch.drives, hs]
  | acked => simp [Watch.drives, hs, hn]
  | easing => cases ha : w.acked <;> simp [Watch.drives, hs, ha, hn]

theorem raised_iff (x : WatchState) : x.raised = true ↔ x = .active ∨ x = .acked ∨ x = .easing := by cases x <;> decide

/-- Settles O38, from what one watch drives. -/
theorem linesAndDemandFollowTheWatches : Obligations.LinesAndDemandFollowTheWatches := by
  intro u
  refine ⟨fun n => (linesNow_iff u n.val).trans ?_, (demandNow_iff u).trans ?_⟩
  · simp only [drives_iff]
  · simp only [raised_iff]

/-! ## O35: raised watches -/

theorem moveRaised_present {w : Watch} (t : Nat) (v : Int) (hs : w.state = .active ∨ w.state = .acked) :
    w.move t (some v) = w.moveRaised (w.classOf v) := by
  rcases hs with hs | hs <;> simp only [Watch.move, hs]

theorem moveEasing_present {w : Watch} (t : Nat) (v : Int) (hs : w.state = .easing) :
    w.move t (some v) = w.moveEasing (w.classOf v) := by
  simp only [Watch.move, hs]

/-- Settles O35: each move keeps the law, and the rows of R104's and R105's tables. -/
theorem raisedWatchesMove : Obligations.RaisedWatchesMove := by
  refine ⟨fun w x h => h.take x, fun su di th re ra cl le li wi ol w h => watchOf_law h, fun w x v hop => ⟨?_, ?_⟩⟩
  · intro hs hact hack
    have ht : w.take x = { w.moveRaised (w.classOf v) with lastOperand := some v, lastClass := w.classOf v } := by
      rw [Watch.take_of_present hop, moveRaised_present _ v hs]
    have ha : w.acked = decide (w.state = .acked) := by
      rcases hs with hs | hs
      · simp [hs, hact hs]
      · simp [hs, hack hs]
    refine ⟨fun hc => ?_, fun hc => ⟨fun h1 => ?_, fun h1 => ?_⟩⟩
    · rcases hc with hc | hc <;> rw [ht, hc] <;> rfl
    · rw [ht, hc, Watch.moveRaised, Watch.runQuiet, if_pos (by omega), Watch.cleared]
    · rw [ht, hc, Watch.moveRaised, Watch.runQuiet, if_neg (by omega), ← ha]
  · intro hs
    have ht : w.take x = { w.moveEasing (w.classOf v) with lastOperand := some v, lastClass := w.classOf v } := by
      rw [Watch.take_of_present hop, moveEasing_present _ v hs]
    refine ⟨fun hc => ?_, fun hc => ?_, fun hc => ⟨fun h1 => ?_, fun h1 => ?_⟩⟩
    · rw [ht, hc, Watch.moveEasing]
    · rw [ht, hc, Watch.moveEasing]
    · rw [ht, hc, Watch.moveEasing, Watch.runQuiet, if_neg (by omega), ← hs]
    · rw [ht, hc, Watch.moveEasing, Watch.runQuiet, if_pos (by omega), Watch.cleared]

/-! ## O57: the law of the watch unit -/

/-- R99: every installed watch of a table is lawful. -/
def TableLaw (v : Vector (Option Watch) 24) : Prop := ∀ k w, v.get k = some w → WatchLaw w

@[simp] theorem putWatches_watches (u : WatchUnit) (s : State) : (putWatches u s).watches = u.settled := by
  simp only [putWatches]
  split <;> simp

@[simp] theorem putWatch_watches (k : Fin 24) (w : Option Watch) (s : State) :
    (putWatch k w s).watches = { s.watches with table := putAt s.watches.table k w }.settled := by
  simp [putWatch]

theorem watchUnitLaw_of_watches {s t : State} (hs : WatchUnitLaw s) (h : t.watches = s.watches) : WatchUnitLaw t := by
  obtain ⟨a, b, c⟩ := hs
  exact ⟨h ▸ a, h ▸ b, h ▸ c⟩

/-- R115, R117: a table rewritten with its lines and its demand set anew. -/
theorem watchUnitLaw_settled {s : State} {u : WatchUnit} (hu : TableLaw u.table) (h : s.watches = u.settled) :
    WatchUnitLaw s where
  watches := by rw [h]; exact hu
  lines := by rw [h]; rfl
  demand := by rw [h]; rfl

theorem tableLaw_put {v : Vector (Option Watch) 24} (hv : TableLaw v) (k : Fin 24) {ow : Option Watch}
    (hw : ∀ w, ow = some w → WatchLaw w) : TableLaw (putAt v k ow) := by
  intro j w hj
  rw [putAt_get] at hj
  split at hj
  · exact hw w hj
  · exact hv j w hj

theorem tableLaw_take {v : Vector (Option Watch) 24} (hv : TableLaw v) (x : FlowSample) :
    TableLaw (mapTable (fun _ w => w.map (Watch.take x)) v) := by
  intro k w h
  rw [mapTable_get] at h
  obtain ⟨w', hw', rfl⟩ := Option.map_eq_some_iff.mp h
  exact (hv k w' hw').take x

theorem watchUnitLaw_putWatch {s : State} (hs : WatchUnitLaw s) (k : Fin 24) {ow : Option Watch}
    (hw : ∀ w, ow = some w → WatchLaw w) : WatchUnitLaw (putWatch k ow s) :=
  watchUnitLaw_settled (u := { s.watches with table := putAt s.watches.table k ow }) (tableLaw_put hs.watches k hw) (by simp)

theorem watchUnitLaw_takeFlow (x : FlowSample) {s : State} (hs : WatchUnitLaw s) : WatchUnitLaw (publishFlow x s) :=
  watchUnitLaw_settled (u := { s.watches with table := mapTable (fun _ w => w.map (Watch.take x)) s.watches.table })
    (tableLaw_take hs.watches x) (by simp [publishFlow, watchesTake])

theorem watchUnitLaw_handRound (recs : List ReadingRecord) {s : State} (hs : WatchUnitLaw s) :
    WatchUnitLaw (handRound recs s) := by
  simp only [handRound]
  split
  · exact watchUnitLaw_takeFlow _ (watchUnitLaw_of_watches hs (by simp [evaluateRatings, markSample]))
  · exact watchUnitLaw_of_watches hs rfl

theorem watchUnitLaw_put (k su di : Byte) (th re : Word) (ra cl le li wi ol : Byte) {s : State} (hs : WatchUnitLaw s) :
    WatchUnitLaw (watchPut k su di th re ra cl le li wi ol s).1 := by
  simp only [watchPut]
  split
  · next w _ hw => exact watchUnitLaw_putWatch hs _ fun v hv => Option.some.inj hv ▸ watchOf_law hw
  · exact hs

theorem watchUnitLaw_ack (k : Byte) {s : State} (hs : WatchUnitLaw s) : WatchUnitLaw (watchAck k s).1 := by
  simp only [watchAck]
  (repeat' split) <;> try exact hs
  next w hw _ _ v hv =>
    exact watchUnitLaw_putWatch hs _ fun v' e => Option.some.inj e ▸ (hs.watches _ _ hw).acknowledged hv

theorem watchUnitLaw_remove (k : Byte) {s : State} (hs : WatchUnitLaw s) : WatchUnitLaw (watchRemove k s).1 := by
  simp only [watchRemove]
  (repeat' split) <;> try exact hs
  exact watchUnitLaw_putWatch hs _ fun v e => absurd e (by simp)

/-- R116: a new silenceable set sets the lines anew and leaves the demand. -/
theorem watchUnitLaw_lineConfig (x : Byte) {s : State} (hs : WatchUnitLaw s) : WatchUnitLaw (lineConfig x s).1 :=
  ⟨hs.watches, rfl, hs.demand⟩

theorem watchUnitLaw_effect {c : Instr} (hr : Touch.of c ≠ .reset) {s : State} (hs : WatchUnitLaw s) :
    WatchUnitLaw (effectOf c s) := by
  cases hk : Touch.of c with
  | reset => exact absurd hk hr
  | host => obtain ⟨_, _, e⟩ := frame_of hk s; rw [e]; exact watchUnitLaw_of_watches hs rfl
  | selector => obtain ⟨_, e⟩ := frame_of hk s; rw [e]; exact watchUnitLaw_of_watches hs rfl
  | ratings => obtain ⟨_, _, e⟩ := frame_of hk s; rw [e]; exact watchUnitLaw_of_watches hs rfl
  | cableway => obtain ⟨_, _, _, _, e⟩ := frame_of hk s; rw [e]; exact watchUnitLaw_of_watches hs rfl
  | adoption => obtain ⟨_, _, _, e⟩ := frame_of hk s; rw [e]; exact watchUnitLaw_of_watches hs rfl
  | line =>
    exact LineRun.elim (frame_of hk s) (fun s v q b h hs => watchUnitLaw_of_watches hs rfl)
      (fun recs s hs => watchUnitLaw_handRound recs hs) hs
  | watches =>
    cases c with
    | watchPut f k su di th re ra cl le li wi ol => exact watchUnitLaw_put k su di th re ra cl le li wi ol hs
    | watchRead f k =>
      have e : effectOf (.watchRead f k) s = s := watchRead_effect k s
      rwa [e]
    | watchAck f k => exact watchUnitLaw_ack k hs
    | watchRemove f k => exact watchUnitLaw_remove k hs
    | lineConfig f x => exact watchUnitLaw_lineConfig x hs
    | characterCompletion line l k => cases line <;> simp [Touch.of] at hk
    | _ => simp [Touch.of] at hk

/-- Settles O57: every rewrite of the table writes lawful watches and sets the lines and the demand anew. -/
theorem everyStepKeepsTheWatchLaw : Obligations.EveryStepKeepsTheWatchLaw :=
  fun s t hs h => step_keeps_law WatchUnitLaw watchUnitLaw_reset (fun _ hs => watchUnitLaw_of_watches hs rfl)
    (fun _ _ _ _ _ _ _ hs => watchUnitLaw_of_watches hs rfl) (fun _ _ hr hs => watchUnitLaw_effect hr hs) s t hs h

/-! ## O39: the verbs -/

/-- R117: a rewrite of the table that makes no demand rise only writes the watch unit. -/
theorem putWatches_still {u : WatchUnit} {s : State} (h : u.demandNow = true → s.watches.demand = true) :
    putWatches u s = { s with watches := u.settled } := by
  have : (!s.watches.demand && u.settled.demand) = false := by
    cases hd : u.settled.demand with
    | false => simp
    | true => simp [h hd]
  simp [putWatches, this]

/-- A verb that rewrites one key: what the block holds after it. -/
theorem watchVerb_writes {n : Nat} {code : Byte} {block : State → State × Answer} {s : State} {k : Fin 24}
    {ow : Option Watch} {b : Body} (h : s.inReset = false) (hi : s.host.ignoring = false) (hn : n < 256)
    (hb : block s = (putWatch k ow s, ⟨.ok, b⟩)) :
    ∃ t, transacted (takeVerb ⟨BitVec.ofNat 8 n, n⟩ n code block) s = .next t ∧
      t.watches = { s.watches with table := putAt s.watches.table k ow }.settled ∧
      t.host.buffer = some ⟨.ok, code, b⟩ ∧ hasMember t.host.attention (.watch k) = true ∧
      t = { s with watches := t.watches, host := t.host, carriage := t.carriage, meter := t.meter, gaugings := t.gaugings } := by
  refine ⟨_, verb_answers h hi hn hb, putWatch_watches k ow s, rfl, ?_, ?_⟩
  · exact (putWatches_marked _ _).keeps (by simp)
  · obtain ⟨wu, ca, me, ga, att, e⟩ := putWatch_effect k ow s
    rw [e]
    rfl

/-- R108: an acknowledged watch is raised as before, so that the demand stays. -/
theorem demandNow_acknowledged {u : WatchUnit} {k : Fin 24} {w v : Watch} (hw : u.table.get k = some w)
    (hraised : v.state.raised = w.state.raised) (hwd : v.withdraw = w.withdraw) :
    ({ u with table := putAt u.table k (some v) } : WatchUnit).demandNow = u.demandNow := by
  rw [Bool.eq_iff_iff, demandNow_iff, demandNow_iff]
  constructor
  · rintro ⟨j, x, hj, hx⟩
    simp only [putAt_get] at hj
    split at hj
    · obtain rfl := Option.some.inj hj
      exact ⟨k, w, hw, hwd ▸ hx.1, hraised ▸ hx.2⟩
    · exact ⟨j, x, hj, hx⟩
  · rintro ⟨j, x, hj, hx⟩
    by_cases e : j = k
    · subst e
      obtain rfl : w = x := Option.some.inj (hw.symm.trans hj)
      exact ⟨j, v, by simp, hwd ▸ hx.1, hraised ▸ hx.2⟩
    · exact ⟨j, x, by simp [putAt_get, e, hj], hx⟩

/-- Settles O39: each verb by the check it meets. -/
theorem watchVerbsWriteTheTable : Obligations.WatchVerbsWriteTheTable := by
  refine ⟨fun key s h hi => ⟨fun su di th re ra cl le li wi ol hbad => ?_, fun hkey => ?_⟩,
    fun key k s h hi hkey => ?_⟩
  · refine verb_answers (n := 18) h hi (by decide) ?_
    rcases hbad with hkey | hw
    · simp [watchPut, keyOf_eq_none (show 24 ≤ key.toNat by omega), refuseWatch, refuse]
    · simp [watchPut, hw, refuseWatch, refuse]
  · have hk := keyOf_eq_none (n := 24) (b := key) (by omega)
    exact ⟨verb_answers (n := 2) h hi (by decide) (by simp [watchRead, hk, refuseWatch, refuse]),
      verb_answers (n := 2) h hi (by decide) (by simp [watchAck, hk, refuseWatch, refuse]),
      verb_answers (n := 2) h hi (by decide) (by simp [watchRemove, hk, refuseWatch, refuse])⟩
  have hk := keyOf_eq_some hkey
  refine ⟨fun su di th re ra cl le li wi ol w hw => ?_, fun w hw => ⟨?_, ?_, fun hs => ?_, fun hs => ?_, fun hs hd => ?_⟩,
    fun hnone => ?_, fun set => ?_⟩
  · obtain ⟨t, he, hwat, hbuf, hmem, hrest⟩ := watchVerb_writes (n := 18) (code := 0x41)
      (block := watchPut key su di th re ra cl le li wi ol) (k := k) (ow := some w) h hi (by decide)
      (by simp only [watchPut, hk, hw]; rfl)
    obtain ⟨sub, dir, wd, o, _, _, rfl⟩ := watchOf_some hw
    refine ⟨t, he, rfl, rfl, rfl, rfl, rfl, rfl, clampNat_eq _ _ _ (by decide), clampNat_eq _ _ _ (by decide), hwat, ?_,
      hmem, hrest⟩
    rw [hbuf, hwat, putWatch_watches]
  · obtain ⟨t, he, hwat, hbuf, hmem, hrest⟩ := watchVerb_writes (n := 2) (code := 0x44)
      (block := watchRemove key) (k := k) (ow := none) h hi (by decide) (by simp only [watchRemove, hk, hw]; rfl)
    refine ⟨t, he, hwat, ?_, hmem, hrest⟩
    rw [hbuf, hwat, putWatch_watches]
  · exact verb_answers (n := 2) h hi (by decide) (by simp [watchRead, hk, hw])
  · have hr : w.state.raised = false := by rcases hs with e | e <;> rw [e] <;> rfl
    exact verb_answers (n := 2) h hi (by decide) (by simp [watchAck, hk, hw, hr, refuse])
  · have hr : w.state.raised = true := by rcases hs with e | ⟨e, _⟩ <;> rw [e] <;> rfl
    have ha : w.acknowledged = none := by rcases hs with e | ⟨e, ha⟩ <;> simp [Watch.acknowledged, e, *]
    exact verb_answers (n := 2) h hi (by decide) (by simp [watchAck, hk, hw, hr, ha])
  · have hr : w.state.raised = true := by rcases hs with e | ⟨e, _⟩ <;> rw [e] <;> rfl
    obtain ⟨v, hv, hvr⟩ : ∃ v, v = { w with acked := true, state := if w.state = WatchState.active then .acked else .easing } ∧
        v.state.raised = true := ⟨_, rfl, by simp only; split <;> rfl⟩
    have ha : w.acknowledged = some v := by
      rcases hs with e | ⟨e, ha⟩
      · simp [Watch.acknowledged, e, hv]
      · simp [Watch.acknowledged, e, ha, hv]
    obtain ⟨t, he, hwat, hbuf, hmem, _⟩ := watchVerb_writes (n := 2) (code := 0x43)
      (block := watchAck key) (k := k) (ow := some v) h hi (by decide) (by simp only [watchAck, hk, hw, hr, ha]; rfl)
    have hsame : ({ s.watches with table := putAt s.watches.table k (some v) } : WatchUnit).demandNow = s.watches.demandNow :=
      demandNow_acknowledged hw (hvr.trans hr.symm) (by rw [hv])
    have hstill : putWatch k (some v) s = { addMember (.watch k) s with watches := { s.watches with
        table := putAt s.watches.table k (some v) }.settled } :=
      putWatches_still fun hd' => by rw [hsame] at hd'; rw [addMember_watches, hd]; exact hd'
    refine ⟨t, v, he, hv, hwat, ?_, ?_, hmem, ?_⟩
    · rw [hwat, hd]
      exact hsame
    · rw [hbuf, hwat, putWatch_watches]
    · have hb : watchAck key s = (putWatch k (some v) s, ⟨.ok, .watch v (putWatch k (some v) s).watches.summary⟩) := by
        simp only [watchAck, hk, hw, hr, ha]; rfl
      have := Host.Outcome.next.inj (he.symm.trans (verb_answers (n := 2) (code := 0x43) h hi (by decide) hb))
      rw [this, hstill]
      rfl
  · exact ⟨verb_answers (n := 2) h hi (by decide) (by simp [watchRead, hk, hnone, refuseWatch, refuse]),
      verb_answers (n := 2) h hi (by decide) (by simp [watchAck, hk, hnone, refuseWatch, refuse]),
      verb_answers (n := 2) h hi (by decide) (by simp [watchRemove, hk, hnone, refuseWatch, refuse])⟩
  · exact ⟨s.watches.withSilenceable set, verb_answers (n := 2) h hi (by decide) rfl, rfl, rfl⟩

end Sys2Proof.Machine
end

section
/-! O56: the law of the line is not kept from every state that meets it, since it says nothing of the power queue. -/

namespace Sys2Proof.Machine

/-- A state that meets the law of the line but not R7's: port 0 is IDENTIFYING, with its request on the line, and stands in
the power queue as well. -/
def identifyingInPowerQueue : State :=
  { State.reset with
    inReset := false
    ports := putAt State.reset.ports 0 { State.reset.ports.get 0 with state := .identifying }
    powerQueue := [0]
    bus := { State.reset.bus with holder := .user (.ident 0), phase := .awaitFrame }
    pending := [.powerSequencerTake] }

theorem identifyingInPowerQueue_lineLaw : LineLaw identifyingInPowerQueue where
  once := by decide
  free := by decide
  ident := by decide
  zero := by decide
  online := by decide

/-- R7: the sequencer takes the port at the front of the queue, whatever its state. -/
theorem identifyingInPowerQueue_step :
    step identifyingInPowerQueue = .next (sequencerTake { identifyingInPowerQueue with pending := [] }) := rfl

/-- Refutes O56: the sequencer's take brings an IDENTIFYING port that stands in the power queue to POWERING, and its identity
request stays on the line. The power law, which forbids that state, is no premise of the statement. -/
theorem not_everyStepKeepsTheLineLaw : ¬ Obligations.EveryStepKeepsTheLineLaw := by
  intro h
  have hl := h _ _ identifyingInPowerQueue_lineLaw identifyingInPowerQueue_step
  have hstate := (hl.ident 0).mp (by decide)
  exact absurd hstate (by decide)

end Sys2Proof.Machine
end

section
/-! The command port (chapter 10) and the verbs whose block only writes its own record: the step and the resets, the frame
checks, transactions bit by bit, the clock, and the verbs of the selector, the discharge unit, the cableway's settings and the
meter. -/

namespace Sys2Proof.Machine

/-! ## The step and the resets -/

/-- Settles O1. -/
theorem stepRunsTheFrontCommand : Obligations.StepRunsTheFrontCommand := step_cons

/-- Settles O2, by evaluation of the state after reset. -/
theorem resetLeavesEveryTableEmpty : Obligations.ResetLeavesEveryTableEmpty := by
  unfold Obligations.ResetLeavesEveryTableEmpty
  refine ⟨by decide, ?_⟩
  repeat' constructor
  all_goals decide

/-- Settles O9. -/
theorem stateDecidesPowerAndTap : Obligations.StateDecidesPowerAndTap := by
  intro st
  cases st <;> decide

/-- A command is a frame, the end of a read transaction, an event that RST_N holds off, or one of the three that it does not. -/
theorem meaning_of_frame {c : Instr} {f : FrameLen} (h : c.frameLen = some f) :
    (∃ layout code block, Meaning.of c = .verb f layout code block) ∨
      ∃ v, c = .unknownVerb f v ∧ Meaning.of c = .transaction (unknownFrame f v) := by
  cases c <;> simp only [Instr.frameLen, Option.some.injEq, reduceCtorEq] at h <;> subst h <;>
    first
    | exact .inr ⟨_, rfl, rfl⟩
    | exact .inl ⟨_, _, _, rfl⟩

theorem meaning_of_event {c : Instr} (h : c.frameLen = none) (h1 : c ≠ .powerOnReset) (h2 : c ≠ .resetRelease)
    (h3 : ∀ n, c ≠ .readTransaction n) (h4 : ∀ b, c ≠ .transactionBegin b) : ∃ f, Meaning.of c = .event f := by
  cases c <;> simp only [Instr.frameLen, reduceCtorEq] at h <;>
    first
    | exact ⟨_, rfl⟩
    | exact absurd rfl h1
    | exact absurd rfl h2
    | exact absurd rfl (h3 _)
    | exact absurd rfl (h4 _)

/-- An event on a part that RST_N does not hold. -/
theorem exec_event {c : Instr} {f : State → State} {s : State} (hm : Meaning.of c = .event f) (h : s.inReset = false) :
    exec c s = .next (f s) := by
  rw [exec_eq_run, hm]
  exact live_next h

/-- R184: a transaction that the part does not take only ends. -/
theorem exec_ignored {c : Instr} {s : State} (h : s.inReset = true ∨ s.host.ignoring = true)
    (hc : (∃ f, c.frameLen = some f) ∨ ∃ n, c = .readTransaction n) :
    exec c s = .next { s with host := { s.host with ignoring := false } } := by
  rw [exec_eq_run]
  rcases hc with ⟨f, hf⟩ | ⟨n, rfl⟩
  · rcases meaning_of_frame hf with ⟨_, _, _, e⟩ | ⟨_, _, e⟩ <;> rw [e] <;> exact transacted_ignored h
  · exact transacted_ignored h

/-- Settles O4: each reset as its definition has it, and what the hold of RST_N lets through by the meaning of a command. -/
theorem resetsTakeEveryRecordToItsResetValue : Obligations.ResetsTakeEveryRecordToItsResetValue := by
  refine ⟨fun s => ?_, fun s h => ?_, fun s h hi => ?_, fun c s h hf h1 h2 h3 h4 => ?_, fun b s h => ?_,
    fun c s h hc => exec_ignored h hc⟩
  · have hu : s.host.underWay = (decide (s.host.reception ≠ .idle) || s.host.ignoring) := by
      by_cases hr : s.host.reception = .idle <;> simp [CommandPort.underWay, hr]
    simp only [exec_eq_run, Meaning.of, Meaning.run, holdInReset, resetBlocks, hu]
  · simp only [exec_eq_run, Meaning.of, Meaning.run, leaveReset, if_pos h]
  · exact verb_answers (n := 1) (block := reset) h hi (by decide) rfl
  · obtain ⟨f, e⟩ := meaning_of_event hf h1 h2 h3 h4
    rw [exec_eq_run, e]
    exact live_held h
  · simp only [exec_eq_run, Meaning.of, Meaning.run, transactionBegins, if_pos h]

/-! ## Frame checks (R177) -/

/-- R187: the layout of a verb is the length of the bytes its table writes. -/
theorem meaning_of_encoded {i : Instr} {f : FrameLen} {code : Byte} {fields : List Byte} (hf : i.frameLen = some f)
    (he : encodeVerb i = some (code :: fields)) :
    ∃ block, Meaning.of i = .verb f (fields.length + 1) code block := by
  cases i <;> simp only [Instr.frameLen, Option.some.injEq, reduceCtorEq] at hf <;> subst hf <;>
    simp only [encodeVerb, Option.some.injEq, List.cons_append, List.nil_append, List.cons.injEq, reduceCtorEq] at he <;>
    obtain ⟨rfl, rfl⟩ := he
  case ratingPoints _ k l =>
    refine ⟨_, (?_ : _ = Meaning.verb _ _ _ (ratingPoints k l))⟩
    simp [Meaning.of, flatMap_length PointField.bytes_length]
    omega
  case gaugingVerticals _ k l =>
    refine ⟨_, (?_ : _ = Meaning.verb _ _ _ (gaugingVerticals k l))⟩
    simp [Meaning.of, flatMap_length VerticalField.bytes_length]
    omega
  case gaugingAdopt _ k v => cases v <;> exact ⟨_, rfl⟩
  all_goals exact ⟨_, rfl⟩

/-- A verb in a frame that fails a length check. -/
theorem verb_fails {f : FrameLen} {layout : Nat} {code : Byte} {block : State → State × Answer} {s : State} {k : FrameFault}
    (h : s.inReset = false) (hi : s.host.ignoring = false) (hk : frameFault f layout = some k) :
    (Meaning.verb f layout code block).run s = .next (respond f.received ⟨.badField, code, .frameFault k⟩ s) := by
  rw [Meaning.run, transacted_next h hi, takeVerb_fault _ _ _ hk]

/-- Settles O5, with the layout of every verb read off its written frame. -/
theorem frameChecksRefuseInOrder : Obligations.FrameChecksRefuseInOrder := by
  refine ⟨fun i f code fields s h hi hf he => ?_, fun b d n s h hi => ?_⟩
  · obtain ⟨block, e⟩ := meaning_of_encoded hf he
    rw [exec_eq_run, e]
    exact ⟨fun hs => verb_fails h hi (frameFault_short _ hs), fun hl => verb_fails h hi (frameFault_long _ hl),
      fun heq hne => verb_fails h hi (frameFault_layout heq hne)⟩
  · have run : exec (.unknownVerb ⟨d, n⟩ (some b)) s = .next (unknownFrame ⟨d, n⟩ (some b) s) := transacted_next h hi
    rw [run]
    refine ⟨fun hs => ?_, fun hl => ?_, fun heq => ?_⟩
    · simp [unknownFrame, frameFault_short (f := ⟨d, n⟩) _ hs]
    · simp [unknownFrame, frameFault_long (f := ⟨d, n⟩) _ hl]
    · have hno : frameFault ⟨d, n⟩ d.toNat = none := by simp [frameFault, heq]
      simp [unknownFrame, hno]

/-! ## Transactions (R176, R178) -/

theorem respond_answers (n : Nat) (r : Response) (s : State) : (respond n r s).rdy = true ∧
    (respond n r s).host.reception = .idle ∧ (respond n r s).host.sdo = List.replicate (n + 1) 0xFF := ⟨rfl, rfl, rfl⟩

/-- R178: every frame that is taken ends in a response. -/
theorem exec_frame {c : Instr} {f : FrameLen} {s : State} (h : s.inReset = false) (hi : s.host.ignoring = false)
    (hf : c.frameLen = some f) : ∃ r u, exec c s = .next (respond f.received r u) := by
  rw [exec_eq_run]
  rcases meaning_of_frame hf with ⟨layout, code, block, e⟩ | ⟨v, _, e⟩
  · rw [e, Meaning.run, transacted_next h hi, takeVerb]
    split <;> exact ⟨_, _, rfl⟩
  · rw [e, Meaning.run, transacted_next h hi]
    simp only [unknownFrame]
    split <;> exact ⟨_, _, rfl⟩

theorem length_bitsOf (b : Byte) : (bitsOf b).length = 8 := by simp [bitsOf]

theorem byteOf_bitsOf (b : Byte) : byteOf (bitsOf b) = b := by
  refine BitVec.eq_of_getMsbD_eq fun i hi => ?_
  rw [byteOf, BitVec.getMsbD_setWidth]
  simp [BitVec.getMsbD_ofBoolListBE, bitsOf, hi]

/-- R176: the whole bytes of a transaction are the bytes shifted, a part of a byte left over dropped. -/
theorem wholeBytes_bits (bytes : List Byte) {part : List Bool} (hp : part.length < 8) {n : Nat} (hn : bytes.length ≤ n) :
    wholeBytes n (bytes.flatMap bitsOf ++ part) = bytes := by
  induction bytes generalizing n with
  | nil => cases n <;> simp [wholeBytes, hp]
  | cons b bytes ih =>
    obtain ⟨n, rfl⟩ : ∃ m, n = m + 1 := ⟨n - 1, by simp at hn; omega⟩
    have hb := length_bitsOf b
    have hlen : ¬ ((b :: bytes).flatMap bitsOf ++ part).length < 8 := by simp [hb]
    rw [wholeBytes, if_neg hlen, List.flatMap_cons, List.append_assoc, List.take_left' hb, List.drop_left' hb,
      byteOf_bitsOf, ih (by simpa using hn)]

/-- R178: what an empty buffer shifts out. -/
theorem shiftedOut_empty (n : Nat) : shiftedOut [0x00] n = 0xFF :: (0x00 :: List.replicate n 0xFF).take n := by
  cases n with
  | zero => rfl
  | succ n => simp [shiftedOut, filler, List.take_replicate]

/-- R176: the first byte of a transaction on a part that is not held in reset. -/
theorem exec_transactionBegin {b : Option FirstByte} {s : State} (h : s.inReset = false) :
    exec (.transactionBegin b) s = .next { s with host := { s.host.begun b with ignoring := false } } := by
  simp only [exec_eq_run, Meaning.of, Meaning.run, transactionBegins, h, Bool.false_eq_true, if_false]

theorem bitsOf_eq (b : Byte) : bitsOf b = [b.getLsbD 7, b.getLsbD 6, b.getLsbD 5, b.getLsbD 4, b.getLsbD 3,
    b.getLsbD 2, b.getLsbD 1, b.getLsbD 0] := by
  simp [bitsOf, List.range_succ, BitVec.getMsbD]

/-- Settles O6. -/
theorem transactionsKeepTheResponseUntilReadWhole : Obligations.TransactionsKeepTheResponseUntilReadWhole := by
  refine ⟨fun n r s => ⟨rfl, rfl⟩, fun c f s h hi hf => ?_, fun r n s h hi hb => ?_, fun n s h hi hb => ?_,
    fun n s h => ⟨?_, fun r hb => ?_, fun hb => ?_, fun b hb => ?_⟩, fun p => ?_, fun bytes part hp => ?_⟩
  · obtain ⟨r, u, e⟩ := exec_frame h hi hf
    exact ⟨_, e, rfl, rfl, rfl⟩
  · have run : exec (.readTransaction n) s = .next (readEnds n s) := transacted_next h hi
    rw [run]
    simp only [readEnds, CommandPort.frame, hb, shiftedOut, filler]
    rfl
  · have run : exec (.readTransaction n) s = .next (readEnds n s) := transacted_next h hi
    rw [run]
    simp only [readEnds, CommandPort.frame, hb, shiftedOut_empty, ite_self]
  · rw [exec_transactionBegin h]
    rfl
  · rw [exec_transactionBegin h]
    simp only [CommandPort.begun, if_true, CommandPort.frame, hb, shiftedOut, filler]
    rfl
  · rw [exec_transactionBegin h]
    simp only [CommandPort.begun, if_true, CommandPort.frame, hb, shiftedOut_empty]
  · rw [exec_transactionBegin h]
    simp only [CommandPort.begun, if_neg hb, filler]
  · rw [CommandPort.sdoBits, funext bitsOf_eq]
  · have hw : wholeBytes (bytes.flatMap bitsOf ++ part).length (bytes.flatMap bitsOf ++ part) = bytes :=
      wholeBytes_bits bytes hp (by simp [length_bitsOf]; omega)
    show decodeTransaction (bytes.flatMap bitsOf ++ part) = _
    rw [decodeTransaction, hw] <;> rfl

/-! ## The clock and the attention summary (R180 to R183) -/

theorem hasMember_empty (m : Member) : hasMember 0 m = false := by simp [hasMember]

/-- R182: a summary with a member asserts ATTN. -/
theorem addMember_attn (m : Member) (s : State) : (addMember m s).attn = true := by
  have hm : hasMember (addMember m s).host.attention m = true := by simp
  simp only [State.attn, bne_iff_ne, ne_eq]
  intro h
  rw [h, hasMember_empty] at hm
  exact absurd hm (by simp)

/-- Settles O7. -/
theorem theClockAndTheAttentionSetAreServed : Obligations.TheClockAndTheAttentionSetAreServed := by
  intro s h
  refine ⟨fun time hi => ?_, fun hi => ?_, ?_, fun hi => ⟨_, ?_, rfl, rfl, fun m => ⟨addMember_attn m _, fun n => ?_⟩⟩⟩
  · exact verb_answers (n := 5) (block := setTime time) h hi (by decide) rfl
  · exact verb_answers (n := 1) (block := readTime) h hi (by decide) rfl
  · exact exec_event (f := timeRises) rfl h
  · exact verb_answers (n := 1) (block := readAttention) h hi (by decide) rfl
  · rw [addMember_attention, hasMember_withMember]
    exact Bool.or_eq_right_iff_imp.mpr fun e => absurd (hasMember_empty n) (by simpa using e)

/-! ## The frames of R187 -/

theorem frameLen_eq {f : FrameLen} {n : Nat} (h : f.received = n) : (⟨f.declared, n⟩ : FrameLen) = f := by
  subst h
  rfl

/-- Settles O8: the fields of each verb read back as they were written. -/
theorem everyVerbFrameDecodesToItsVerb : Obligations.EveryVerbFrameDecodesToItsVerb := by
  intro i f bytes hf he hd hr
  have hlt : bytes.length < 256 := hd ▸ f.declared.isLt
  cases i <;> simp only [Instr.frameLen, Option.some.injEq, reduceCtorEq] at hf <;> subst hf <;>
    simp only [encodeVerb, Option.some.injEq, List.cons_append, List.nil_append, reduceCtorEq] at he <;> subst he
  case ratingPoints f k l =>
    have hl : (BitVec.ofNat 8 l.length).toNat = l.length := by
      rw [BitVec.toNat_ofNat]
      refine Nat.mod_eq_of_lt ?_
      simp [flatMap_length PointField.bytes_length] at hlt
      omega
    simp only [decodeFrame, frameLen_eq hr]
    exact congrArg (Instr.ratingPoints f k) (pointsAt_bytes k _ l hl)
  case gaugingVerticals f k l =>
    have hl : (BitVec.ofNat 8 l.length).toNat = l.length := by
      rw [BitVec.toNat_ofNat]
      refine Nat.mod_eq_of_lt ?_
      simp [flatMap_length VerticalField.bytes_length] at hlt
      omega
    simp only [decodeFrame, frameLen_eq hr]
    exact congrArg (Instr.gaugingVerticals f k) (verticalsAt_bytes k _ l hl)
  case gaugingAdopt f k v =>
    simp only [decodeFrame, frameLen_eq hr]
    cases v with
    | none =>
      have hne : ¬ f.declared = 4 := fun e => by rw [e] at hd; exact absurd hd (by simp)
      exact congrArg (Instr.gaugingAdopt f k) (if_neg hne)
    | some x =>
      have heq : f.declared = 4 := BitVec.eq_of_toNat_eq hd
      exact congrArg (Instr.gaugingAdopt f k) ((if_pos heq).trans (congrArg some (half_of_bytes x)))
  all_goals simp only [decodeFrame, frameLen_eq hr]
  case setTime f t => exact congrArg (Instr.setTime f) (word_of_bytes t)
  case portConfig f p k a d c m n => exact congrArg (fun d => Instr.portConfig f p k a d c m n) (word_of_bytes d)
  case busConfig f d n => exact congrArg₂ (Instr.busConfig f) (half_of_bytes d) (half_of_bytes n)
  case stagePolicy f c d g h k => exact congrArg (fun g => Instr.stagePolicy f c d g h k) (half_of_bytes g)
  case observerEntry f h t => exact congrArg₂ (Instr.observerEntry f) (half_of_bytes h) (word_of_bytes t)
  case ratingBegin f k t a => exact congrArg₂ (Instr.ratingBegin f k) (word_of_bytes t) (half_of_bytes a)
  case shiftPut f k t v => exact congrArg₂ (Instr.shiftPut f k) (word_of_bytes t) (half_of_bytes v)
  case shiftRemove f k t => exact congrArg (Instr.shiftRemove f k) (word_of_bytes t)
  case watchPut f k su d t r n c l w a o =>
    exact congrArg₂ (fun t r => Instr.watchPut f k su d t r n c l w a o) (word_of_bytes t) (word_of_bytes r)
  case cablewayConfig f t => exact congrArg (Instr.cablewayConfig f) (half_of_bytes t)
  case meterConfig f e p a1 b1 nb a2 b2 =>
    exact congr (congrArg₂ (fun b1 nb b2 => Instr.meterConfig f e p a1 b1 nb a2 b2) (half_of_bytes b1) (word_of_bytes nb))
      (half_of_bytes b2)
  case gaugingPlan f k d m o u => exact congrArg₂ (Instr.gaugingPlan f k d m) (half_of_bytes o) (half_of_bytes u)
  all_goals rfl

/-! ## The verbs of the selector (R43, R49, R50, R58) -/

/-- Settles O26. -/
theorem stageVerbsWriteThePolicy : Obligations.StageVerbsWriteThePolicy := by
  intro s h hi
  refine ⟨fun c d g hh k => ⟨fun hc => ?_, fun h1 h4 => ?_⟩, fun hh t => ⟨fun hbad => ?_, fun hlo hhi => ⟨fun hu => ?_, fun hu => ?_⟩⟩,
    ?_, ?_⟩
  · exact verb_answers (n := 7) h hi (by decide) (if_pos hc)
  · have hd := d.isLt
    refine ⟨_, _, _, _, ?_, ?_, ?_, ?_,
      verb_answers (n := 7) (block := stagePolicy c d g hh k) h hi (by decide) (if_neg (by omega))⟩
    · rw [clampNat_eq _ _ _ (by decide)]; omega
    · exact clampNat_eq _ _ _ (by decide)
    · rw [clampNat_eq _ _ _ (by decide)]; omega
    · rw [clampNat_eq _ _ _ (by decide)]; omega
  · have hno : stageOk hh.toInt = false := by
      simp only [stageOk, inRange, Bool.and_eq_false_iff, decide_eq_false_iff_not]
      omega
    exact verb_answers (n := 7) h hi (by decide) (by simp [observerEntry, hno, refuse])
  · have hok : stageOk hh.toInt = true := by simp [stageOk, inRange, hlo, hhi]
    exact verb_answers (n := 7) h hi (by decide) (by simp [observerEntry, hok, hu, refuse])
  · have hok : stageOk hh.toInt = true := by simp [stageOk, inRange, hlo, hhi]
    exact verb_answers (n := 7) h hi (by decide) (by simp [observerEntry, hok, hu, freshAt])
  · exact verb_answers (n := 1) (block := reselect) h hi (by decide) rfl
  · refine verb_answers (n := 1) (block := stageRead) h hi (by decide) ?_
    simp only [stageRead, Bool.decide_and]
    rfl

/-! ## The discharge unit (R86, R93, R94) -/

/-- Settles O33, by the slot in force and the stage of the sample. -/
theorem flowSamplesHaveADischarge : Obligations.FlowSamplesHaveADischarge := by
  refine ⟨fun s h hi => verb_answers (n := 1) (block := flowRead) h hi (by decide) rfl, fun st x => ?_⟩
  cases hk : st.inForce with
  | none => simp [flowOf, hk, flowWithout]
  | some k =>
    cases hx : x.stage with
    | none => simp [flowOf, hk, hx, flowWithout]
    | some v =>
      refine ⟨by simp [flowOf, hk, hx], by simp [flowOf, hk, hx], by simp [flowOf, hk, hx], by simp [flowOf, hk, hx], ?_⟩
      intro j u hj hu
      obtain rfl := Option.some.inj hj
      obtain rfl := Option.some.inj hu
      simp [flowOf, hk, hx, ratedRequest]

/-! ## The settings of the cableway and the meter (R129, R142, R144, R145, R147) -/

/-- Settles O41. -/
theorem theMoveTimeoutIsClamped : Obligations.TheMoveTimeoutIsClamped := by
  intro s h
  refine ⟨fun v hi => ⟨_, clampNat_eq 5 600 v.toNat (by decide), ?_⟩, fun o rest hw => ⟨_, exec_event rfl h, ?_⟩, fun hi => ?_⟩
  · exact verb_answers (n := 3) (block := cablewayConfig v) h hi (by decide) rfl
  · simp only [Carriage.sent, hw]
  · exact verb_answers (n := 1) (block := cablewayRead) h hi (by decide) rfl

/-- Settles O47. -/
theorem theMeterCounts : Obligations.TheMeterCounts := by
  intro s h
  have fall := exec_event (c := .meterInputFall) rfl h
  refine ⟨fun he => ?_, fun he hc => ?_, fun he hc => ?_, fall,
    fun e p a1 b1 nb a2 b2 hi he hp1 hp2 ha1 hb1 hb1' hnb ha2 hb2 hb2' => ⟨_, ?_, rfl⟩⟩
  · exact (exec_event rfl h).trans (by simp [Meter.countEvent, he])
  · exact (exec_event rfl h).trans (by simp [Meter.countEvent, he, hc])
  · exact (exec_event rfl h).trans (by simp [Meter.countEvent, he, hc])
  · have hok : MeterRating.firstBad ⟨p.toNat, a1.toNat, b1.toNat, nb.toNat, a2.toNat, b2.toNat⟩ = none := by
      simp only [MeterRating.firstBad]
      rw [if_neg (by omega), if_neg (by omega), if_neg (by omega), if_neg (by omega), if_neg (by omega), if_neg (by omega)]
    exact verb_answers (n := 13) (block := meterConfig e p a1 b1 nb a2 b2) h hi (by decide)
      (by simp [meterConfig, hok, he, clampNat_eq])

end Sys2Proof.Machine
end

section
/-! The port verbs and events (chapter 1): the offer for power and the move of a record, with what they leave as it was, and
the statements about PORT_CONFIG, PORT_ENABLE, PORT_DISABLE and the events of a port. -/

namespace Sys2Proof.Machine

/-! ## What the port controller leaves as it was -/

/-- The second state differs from the first in the ports, the power queue and the host's record alone. -/
def PortsOnly (s t : State) : Prop := t = { s with ports := t.ports, powerQueue := t.powerQueue, host := t.host }

theorem PortsOnly.refl (s : State) : PortsOnly s s := rfl

theorem PortsOnly.of_eq {s t : State} {v : Vector Port 4} {q : List (Fin 4)} {h : CommandPort}
    (e : t = { s with ports := v, powerQueue := q, host := h }) : PortsOnly s t := by
  subst e
  rfl

theorem PortsOnly.trans {s t u : State} (h1 : PortsOnly s t) (h2 : PortsOnly t u) : PortsOnly s u := by
  unfold PortsOnly at h1 h2
  rw [h1] at h2
  exact .of_eq h2

theorem addMemberIf_portsOnly (c : Bool) (m : Member) (s : State) : PortsOnly s (addMemberIf c m s) := by
  cases c <;> exact .of_eq rfl

theorem storePort_portsOnly (p : Fin 4) (r : Port) (s : State) : PortsOnly s (storePort p r s) :=
  (PortsOnly.of_eq (t := { s with ports := putAt s.ports p ((s.ports.get p).settled r) }) rfl).trans
    (addMemberIf_portsOnly ..)

theorem sequencerTake_portsOnly (s : State) : PortsOnly s (sequencerTake s) := by
  simp only [sequencerTake]
  (repeat' split)
  · exact .refl s
  · exact .refl s
  · next rest _ _ =>
    exact (PortsOnly.of_eq (t := { s with powerQueue := rest }) rfl).trans (storePort_portsOnly ..)

theorem leaveQueue_portsOnly (p : Fin 4) (o n : PortState) (s : State) : PortsOnly s (leaveQueue p o n s) := by
  simp only [leaveQueue]
  split <;> exact .of_eq rfl

theorem offerPower_portsOnly (p : Fin 4) (r : Port) (s : State) : PortsOnly s (offerPower p r s) := by
  simp only [offerPower]
  split
  · exact (storePort_portsOnly p r.requested s).trans ((PortsOnly.of_eq rfl).trans (sequencerTake_portsOnly _))
  · exact storePort_portsOnly ..

theorem respond_portsOnly (n : Nat) (r : Response) (s : State) : PortsOnly s (respond n r s) := .of_eq rfl

/-! ## The move of a record -/

/-- On a free line a move touches the ports, the power queue and the attention summary alone. -/
theorem movePort_portsOnly_free {p : Fin 4} {r : Port} {s : State} (hl : LineLaw s) (hf : s.bus.holder = .free) :
    PortsOnly s (movePort p r s) := by
  rw [movePort_free hl hf]
  exact ((storePort_portsOnly ..).trans (leaveQueue_portsOnly ..)).trans (sequencerTake_portsOnly _)

/-- The move of a port without a tap touches no line. -/
theorem movePort_untapped {p : Fin 4} {r : Port} {s : State} (h : (s.ports.get p).state.tapped = false) :
    movePort p r s = sequencerTake (leaveQueue p (s.ports.get p).state r.state (storePort p r s)) := by
  have hi : (s.ports.get p).state ≠ .identifying := fun e => by simp [e, PortState.tapped] at h
  have ho : (s.ports.get p).state ≠ .online := fun e => by simp [e, PortState.tapped] at h
  have hp : (s.ports.get p).state.polled = false := by
    cases hs : (s.ports.get p).state <;> simp [hs, PortState.tapped, PortState.polled] at h ⊢
  simp only [movePort, leaveIdent, leaveZero, leavePoll, hi, ho, hp, Bool.false_eq_true, false_and, if_false]

theorem movePort_portsOnly_untapped {p : Fin 4} {r : Port} {s : State} (h : (s.ports.get p).state.tapped = false) :
    PortsOnly s (movePort p r s) := by
  rw [movePort_untapped h]
  exact ((storePort_portsOnly ..).trans (leaveQueue_portsOnly ..)).trans (sequencerTake_portsOnly _)

/-- R5, R17: a record written as one that is not polled and whose lamp does not blink. -/
theorem settled_dark {old r : Port} (ho : old.blinkLit = true → old.lamp.blinks = true)
    (hr : (lampPattern r.state false).blinks = false) (hp : r.state.polled = false) :
    old.settled r = { r with silent := false, blinkLit := false } := by
  have hn : r.silentNow = false := by simp [Port.silentNow, hp]
  rw [settled_eq, settled_blinkLit_steady ho (by rwa [hn]), hn]

/-- R5: a record written as FAULTED from a state that is not. -/
theorem settled_faulted {old r : Port} (ho : old.state ≠ .faulted) (hr : r.state = .faulted) :
    old.settled r = { r with silent := false, blinkLit := true } := by
  have hn : r.silentNow = false := by simp [Port.silentNow, hr, PortState.polled]
  have hlamp : old.lamp ≠ lampPattern r.state r.silentNow := by
    rw [hr]
    cases hs : old.state <;> simp [Port.lamp, lampPattern, hs] at ho ⊢
  rw [settled_eq, settled_blinkLit_new hlamp (by rw [hr]; rfl), hn]

/-- A move to FAULTED of a port that is not. -/
theorem movePort_faulted {p : Fin 4} {r : Port} {s : State} (h : PowerLaw s) (ho : (s.ports.get p).state ≠ .faulted)
    (hr : r.state = .faulted) : (movePort p r s).ports.get p = { r with silent := false, blinkLit := true } := by
  rw [(movePort_spec h (by simp [hr])).1, settled_faulted ho hr]

/-- A move to EMPTY or DISABLED. -/
theorem movePort_dark {p : Fin 4} {r : Port} {s : State} (h : PowerLaw s) (hl : PortLaw s)
    (hr : r.state = .empty ∨ r.state = .disabled) :
    (movePort p r s).ports.get p = { r with silent := false, blinkLit := false } := by
  have hw : r.state ≠ .waiting := by rcases hr with e | e <;> simp [e]
  rw [(movePort_spec h hw).1, settled_dark (hl p).2]
  · rcases hr with e | e <;> rw [e] <;> rfl
  · rcases hr with e | e <;> rw [e] <;> rfl

/-- The write of a level of a record in order. -/
theorem storePort_level {p : Fin 4} {r : Port} {s : State} (hl : PortLaw s) (hst : r.state = (s.ports.get p).state)
    (hm : r.missLimit = (s.ports.get p).missLimit) (hc : r.missCount = (s.ports.get p).missCount)
    (hs : r.silent = (s.ports.get p).silent) (hb : r.blinkLit = (s.ports.get p).blinkLit) :
    storePort p r s = { s with ports := putAt s.ports p r } := storePort_plain (hl p).1 hst hm hc hs hb

/-! ## The offer for power -/

/-- R6, R7: what an offer for power comes to: a record without the four conditions is written, and one with them waits or
is powered. -/
theorem offerPower_spec {p : Fin 4} {r : Port} {s : State} (h : PowerLaw s)
    (ho : r.wantsPower = true → (s.ports.get p).state ≠ .powering) :
    (∀ q, q ≠ p → (offerPower p r s).ports.get q = s.ports.get q) ∧
      (∃ lit, (offerPower p r s).ports.get p = { r with
        state := if r.wantsPower then powerReply s else r.state
        timer := if r.wantsPower = true ∧ powerReply s = .powering then some r.pgMode.wait else r.timer
        silent := (if r.wantsPower then false else r.silentNow), blinkLit := lit }) ∧
      (offerPower p r s).powerQueue =
        (if r.wantsPower = true ∧ powerReply s = .waiting then s.powerQueue ++ [p] else s.powerQueue) := by
  cases hw : r.wantsPower with
  | false =>
    rw [offerPower_not hw]
    exact ⟨fun q hq => by simp [putAt_get_ne _ _ hq], ⟨_, by rw [storePort_ports, putAt_get_self, settled_eq]; rfl⟩, by simp⟩
  | true =>
    cases ha : anyPowering s.ports with
    | true =>
      have hreply : powerReply s = .waiting := by simp [powerReply, ha]
      rw [offerPower_waits hw (ho hw) ha, hreply]
      exact ⟨fun q hq => by simp [putAt_get_ne _ _ hq], ⟨_, by rw [storePort_ports, putAt_get_self, settled_eq]; rfl⟩, by simp⟩
    | false =>
      have hq : s.powerQueue = [] := by
        by_contra hne
        obtain ⟨q, hq⟩ := h.served hne
        exact (anyPowering_false_iff _).mp ha q hq
      have hreply : powerReply s = .powering := by simp [powerReply, ha, hq]
      rw [offerPower_powers hw (ho hw) ha hq, hreply]
      exact ⟨fun q hq => by simp [putAt_get_ne _ _ hq], ⟨_, by rw [storePort_ports, putAt_get_self, settled_eq]; rfl⟩, by simp [hq]⟩

theorem powerReply_eq (s : State) : powerReply s = .powering ∨ powerReply s = .waiting := by
  simp only [powerReply]
  split <;> simp

/-! ## O10: PORT_CONFIG and PORT_READ -/

/-- A port verb that is taken. -/
theorem portVerb_answers {code : Byte} {block : State → State × Answer} {s t : State} {p : Fin 4} (h : s.inReset = false)
    (hi : s.host.ignoring = false) (hb : block s = okPort p t) :
    transacted (takeVerb ⟨2, 2⟩ 2 code block) s = .next (respond 2 ⟨.ok, code, portBody p t⟩ t) :=
  verb_answers (n := 2) h hi (by decide) hb

theorem addressTaken_iff (v : Vector Port 4) (p : Fin 4) (a : Nat) :
    addressTaken v p a = true ↔ ∃ q, q ≠ p ∧ (v.get q).address = a := by
  simp [addressTaken]

theorem changesFixed_iff (f : PortFields) (r : Port) :
    f.changesFixed r = true ↔ f.kind ≠ r.kind ∨ f.address ≠ r.address ∨ f.pgMode ≠ r.pgMode := by
  simp [PortFields.changesFixed, or_assoc]

/-- R22: the write of a record in the state it had sets the port's member when the silent field changes. -/
theorem storePort_attention_same {p : Fin 4} {r : Port} {s : State} (h : r.state = (s.ports.get p).state) :
    (storePort p r s).host.attention = if ((storePort p r s).ports.get p).silent = (s.ports.get p).silent
      then s.host.attention else withMember s.host.attention (.port p) := by
  rw [storePort_ports, putAt_get_self]
  by_cases hsil : ((s.ports.get p).settled r).silent = (s.ports.get p).silent
  · have hm : (s.ports.get p).marks ((s.ports.get p).settled r) = false := by simp [Port.marks, h, ← hsil]
    rw [if_pos hsil]
    simp [storePort, hm]
  · have hm : (s.ports.get p).marks ((s.ports.get p).settled r) = true := by
      simp only [Port.marks, Bool.or_eq_true, bne_iff_ne]
      exact .inr (Ne.symm hsil)
    rw [if_neg hsil]
    simp [storePort, hm]

/-- Settles O10, by the checks of PORT_CONFIG in their order. -/
theorem portConfigWritesTheSixFields : Obligations.PortConfigWritesTheSixFields := by
  intro port kind address datum cls mode missLimit s h hi
  have taken : ∀ {t : State} {c : ResultCode} {b : Body},
      portConfig port kind address datum cls mode missLimit s = (t, ⟨c, b⟩) →
      exec (.portConfig ⟨11, 11⟩ port kind address datum cls mode missLimit) s = .next (respond 11 ⟨c, 0x10, b⟩ t) :=
    fun hb => verb_answers (n := 11) h hi (by decide) hb
  refine ⟨fun hbad => taken ?_, fun p fs hport => ⟨?_, fun hfs => ⟨fun haddr => taken ?_, fun hfree => ⟨fun hpow hfix => taken ?_,
    fun hok => ?_⟩⟩⟩⟩
  · rcases hbad with hkey | hf
    · simp [portConfig, keyOf_eq_none (n := 4) (b := port) (by omega), refuse]
    · cases hk : keyOf 4 port <;> simp [portConfig, hf, hk, refuse]
  · exact portVerb_answers h hi (by simp [portRead, keyOf_eq_some hport])
  · simp [portConfig, keyOf_eq_some hport, hfs, (addressTaken_iff ..).mpr haddr, refuse]
  · have ha : addressTaken s.ports p fs.address = false :=
      Bool.eq_false_iff.mpr fun e => by obtain ⟨q, hq, e⟩ := (addressTaken_iff ..).mp e; exact hfree q hq e
    simp [portConfig, keyOf_eq_some hport, hfs, ha, hpow, (changesFixed_iff ..).mpr hfix, refuse]
  · have ha : addressTaken s.ports p fs.address = false :=
      Bool.eq_false_iff.mpr fun e => by obtain ⟨q, hq, e⟩ := (addressTaken_iff ..).mp e; exact hfree q hq e
    have hfix : ((s.ports.get p).state.powered && fs.changesFixed (s.ports.get p)) = false := by
      rcases hok with hpow | ⟨hk, had, hpg⟩
      · simp [hpow]
      · simp [PortFields.changesFixed, hk, had, hpg]
    have hb : portConfig port kind address datum cls mode missLimit s = okPort p (storePort p (fs.into (s.ports.get p)) s) := by
      simp [portConfig, keyOf_eq_some hport, hfs, ha, hfix]
    have hget : (storePort p (fs.into (s.ports.get p)) s).ports.get p = (s.ports.get p).settled (fs.into (s.ports.get p)) := by
      simp
    refine ⟨_, taken hb, ?_, fun q hq => ?_, ?_, ?_⟩
    · have hs := storePort_portsOnly p (fs.into (s.ports.get p)) s
      unfold PortsOnly at hs
      rw [storePort_powerQueue] at hs
      rw [hs]
      rfl
    · simp [putAt_get_ne _ _ hq]
    · rw [respond_ports, hget]
      rfl
    · refine CommandPort.eq_of_fields rfl ?_ (by simp) (by simp) ?_ rfl (by simp)
      · simp [portBody, respond]
      · exact storePort_attention_same rfl

/-! ## O11: PORT_ENABLE -/

/-- R19: the record that PORT_ENABLE offers for power, when it offers one. -/
theorem enablePort_offers {p : Fin 4} {s : State}
    (h : (s.ports.get p).state = .disabled ∨ (s.ports.get p).state = .faulted ∨
      ((s.ports.get p).state = .empty ∧ ((s.ports.get p).enabled = false ∨ (s.ports.get p).removedNotPulled = true))) :
    ∃ r : Port, enablePort p s = offerPower p r s ∧ r.state = .empty ∧ r.enabled = true ∧
      (∃ fault ident misses removed timer, r = { s.ports.get p with
        state := .empty, enabled := true, faultCause := fault, identity := ident, missCount := misses,
        removedNotPulled := removed, timer := timer }) ∧
      ((s.ports.get p).state = .disabled → r.removedNotPulled = false) ∧
      ((s.ports.get p).state = .faulted → r.faultCause = none ∧ r.identity = none) ∧
      ((s.ports.get p).enabled = true → (s.ports.get p).removedNotPulled = true → (s.ports.get p).state = .empty →
        r.removedNotPulled = false) := by
  rcases h with hd | hf | ⟨he, h⟩
  · refine ⟨{ (s.ports.get p).emptied with enabled := true, removedNotPulled := false }, by simp only [enablePort, hd], rfl, rfl,
      ⟨_, _, _, _, _, rfl⟩, fun _ => rfl, fun e => ?_, fun _ _ _ => rfl⟩
    rw [hd] at e; exact absurd e (by simp)
  · refine ⟨{ (s.ports.get p).emptied with enabled := true }, by simp only [enablePort, hf], rfl, rfl,
      ⟨_, _, _, _, _, rfl⟩, fun e => ?_, fun _ => ⟨rfl, rfl⟩, fun _ _ e => ?_⟩
    · rw [hf] at e; exact absurd e (by simp)
    · rw [hf] at e; exact absurd e (by simp)
  · cases hen : (s.ports.get p).enabled with
    | false =>
      refine ⟨{ s.ports.get p with enabled := true }, by simp [enablePort, he, hen], he, rfl,
        ⟨_, _, _, _, _, by rw [← he]⟩, fun e => ?_, fun e => ?_, fun e => absurd e (by simp)⟩
      · rw [he] at e; exact absurd e (by simp)
      · rw [he] at e; exact absurd e (by simp)
    | true =>
      have hr : (s.ports.get p).removedNotPulled = true := h.resolve_left (by simp [hen])
      refine ⟨{ s.ports.get p with removedNotPulled := false }, by simp [enablePort, he, hen, hr], he, hen,
        ⟨_, _, _, _, _, by rw [← he, ← hen]⟩, fun _ => rfl, fun e => ?_, fun _ _ _ => rfl⟩
      rw [he] at e; exact absurd e (by simp)

/-- Settles O11, from the record that the verb offers for power and what an offer comes to. -/
theorem portEnableByState : Obligations.PortEnableByState := by
  intro port p s h hi hport hp
  have taken : exec (.portEnable ⟨2, 2⟩ port) s =
      .next (respond 2 ⟨.ok, 0x11, portBody p (enablePort p s)⟩ (enablePort p s)) :=
    portVerb_answers h hi (by simp [portEnable, keyOf_eq_some hport])
  refine ⟨fun hd hf he => ?_, fun hs => ?_⟩
  · have hsame : enablePort p s = s := by
      cases hst : (s.ports.get p).state with
      | disabled => exact absurd hst hd
      | faulted => exact absurd hst hf
      | empty => simp [enablePort, hst, he hst]
      | waiting | powering | identifying | online | removing => simp [enablePort, hst]
    rw [taken, hsame]
    rfl
  · obtain ⟨r, hr, hre, hren, ⟨fault, ident, misses, removed, timer, hrec⟩, hdis, hfau, hrem⟩ := enablePort_offers hs
    have hno : (s.ports.get p).state ≠ .powering := by rcases hs with e | e | ⟨e, _⟩ <;> simp [e]
    obtain ⟨hother, ⟨lit, hget⟩, hqueue⟩ := offerPower_spec (r := r) hp fun _ => hno
    have hwants : r.wantsPower = (r.present && r.latchClosed && !r.removedNotPulled) := by
      simp [Port.wantsPower, hre, hren, Bool.and_assoc]
    rw [hr] at taken
    refine ⟨_, taken, (offerPower_portsOnly p r s).trans (respond_portsOnly ..), hother, ?_, fun hpow => ?_, fun hd => ?_,
      fun hf => ?_, fun h1 h2 h3 => ?_, ?_, ?_, rfl⟩
    all_goals simp only [respond_ports, respond_powerQueue]
    · have key : ∀ st tm sil lit, { r with state := st, timer := tm, silent := sil, blinkLit := lit } =
          { s.ports.get p with
            state := st, enabled := true, faultCause := fault, identity := ident, missCount := misses,
            removedNotPulled := removed, silent := sil, blinkLit := lit, timer := tm } := by
        intros
        rw [hrec]
      exact ⟨_, _, _, _, _, _, _, _, hget.trans (key ..)⟩
    · have hmode : r.pgMode = (s.ports.get p).pgMode := by rw [hrec]
      rw [respond_ports, hget] at hpow
      rw [hget, ← hmode]
      cases hw : r.wantsPower with
      | false => simp [hw, hre] at hpow
      | true =>
        have hreply : powerReply s = .powering := by simpa [hw] using hpow
        simp [hreply]
    · rw [hget]; exact hdis hd
    · rw [hget]; exact hfau hf
    · rw [hget]; exact hrem h1 h2 h3
    · simp only [hget, hwants, hre]
    · simp only [hget, hqueue]
      cases hw : r.wantsPower <;> simp [hre]

/-! ## O12: PORT_DISABLE -/

/-- The other ports after a move or after the write of one record. -/
def OthersKept (p : Fin 4) (s t : State) : Prop :=
  ∀ q, q ≠ p → t.ports.get q = s.ports.get q ∨ ((s.ports.get q).state = .waiting ∧ (t.ports.get q).state = .powering)

theorem othersKept_put {p : Fin 4} {r : Port} {s t : State} (h : t.ports = putAt s.ports p r) : OthersKept p s t :=
  fun q hq => .inl (by rw [h, putAt_get_ne _ _ hq])

/-- R20: what PORT_DISABLE makes of a port in service. -/
def Port.takenOut (r : Port) : Port :=
  { r with state := .disabled, enabled := false, missCount := 0, identity := none, removedNotPulled := false, timer := none }

theorem disablePort_disabled {p : Fin 4} {s : State} (h : (s.ports.get p).state = .disabled) : disablePort p s = s := by
  simp only [disablePort, h]

theorem disablePort_faulted {p : Fin 4} {s : State} (hl : PortLaw s) (h : (s.ports.get p).state = .faulted) :
    disablePort p s = { s with ports := putAt s.ports p { s.ports.get p with enabled := false } } := by
  simp only [disablePort, h]
  exact storePort_level hl h.symm rfl rfl rfl rfl

theorem disablePort_service {p : Fin 4} {s : State} (h1 : (s.ports.get p).state ≠ .faulted)
    (h2 : (s.ports.get p).state ≠ .disabled) : disablePort p s = movePort p (s.ports.get p).takenOut s := by
  cases h : (s.ports.get p).state with
  | faulted => exact absurd h h1
  | disabled => exact absurd h h2
  | empty | waiting | powering | identifying | online | removing => simp only [disablePort, h, Port.takenOut]

theorem not_mem_powerQueue {p : Fin 4} {s : State} (h : PowerLaw s) (hp : (s.ports.get p).state ≠ .waiting) :
    p ∉ s.powerQueue := fun hm => hp ((h.waiting p).mp hm)

/-- Settles O12, by the state of the port. -/
theorem portDisableTakesThePortOut : Obligations.PortDisableTakesThePortOut := by
  intro port p s h hi hport hp hl hline
  have taken : exec (.portDisable ⟨2, 2⟩ port) s =
      .next (respond 2 ⟨.ok, 0x12, portBody p (disablePort p s)⟩ (disablePort p s)) :=
    portVerb_answers h hi (by simp [portDisable, keyOf_eq_some hport])
  refine ⟨fun hd => ?_, ?_⟩
  · rw [taken, disablePort_disabled hd]
    rfl
  by_cases hf : (s.ports.get p).state = .faulted
  · rw [disablePort_faulted hl hf] at taken
    have hq : p ∉ s.powerQueue := not_mem_powerQueue hp (by simp [hf])
    exact ⟨_, taken, fun _ => by simp, fun hn => absurd hf hn, hq, othersKept_put rfl, fun _ => rfl⟩
  by_cases hd : (s.ports.get p).state = .disabled
  · rw [disablePort_disabled hd] at taken
    have hq : p ∉ s.powerQueue := not_mem_powerQueue hp (by simp [hd])
    exact ⟨_, taken, fun e => absurd e hf, fun _ hn => absurd hd hn, hq, fun q _ => .inl rfl, fun _ => rfl⟩
  · rw [disablePort_service hf hd] at taken
    obtain ⟨_, hq, hother⟩ := movePort_spec (r := (s.ports.get p).takenOut) hp (by simp [Port.takenOut])
    exact ⟨_, taken, fun e => absurd e hf, fun _ _ => movePort_dark hp hl (.inr rfl), hq, hother,
      fun hfree => (movePort_portsOnly_free hline hfree).trans (respond_portsOnly ..)⟩

/-! ## O13: insertion -/

/-- R6: a level written of a record that may complete its four conditions. -/
theorem offerPower_level {p : Fin 4} {r : Port} {s : State} (hp : PowerLaw s) (hl : PortLaw s)
    (hst : r.state = (s.ports.get p).state) (hm : r.missLimit = (s.ports.get p).missLimit)
    (hc : r.missCount = (s.ports.get p).missCount) (hs : r.silent = (s.ports.get p).silent)
    (hb : r.blinkLit = (s.ports.get p).blinkLit) :
    let t := offerPower p r s
    (∃ (state : PortState) (lit : Bool) (timer : Option PortTimer),
        t.ports.get p = { r with state := state, blinkLit := lit, timer := timer }) ∧
      ((t.ports.get p).state = (s.ports.get p).state ∨ (t.ports.get p).state = .waiting ∨
        (t.ports.get p).timer = some r.pgMode.wait) ∧
      (t.ports.get p).state = (if r.wantsPower then powerReply s else (s.ports.get p).state) ∧
      ((t.ports.get p).state = (s.ports.get p).state → t = { s with ports := putAt s.ports p r }) ∧
      ((t.ports.get p).state ≠ (s.ports.get p).state → hasMember t.host.attention (.port p) = true) := by
  intro t
  cases hw : r.wantsPower with
  | false =>
    have e : t = { s with ports := putAt s.ports p r } :=
      (offerPower_not hw).trans (storePort_level hl hst hm hc hs hb)
    have hget : t.ports.get p = r := by rw [e]; simp
    exact ⟨⟨_, _, _, hget⟩, .inl (by rw [hget, hst]), by rw [hget, hst]; rfl, fun _ => e, fun hne => absurd (by rw [hget, hst]) hne⟩
  | true =>
    have hempty : r.state = .empty := by
      simp only [Port.wantsPower, Bool.and_eq_true, beq_iff_eq] at hw; exact hw.1.1.1.1
    have hold : (s.ports.get p).state = .empty := hst ▸ hempty
    have hsil : r.silent = false := by rw [hs, (hl p).1]; simp [Port.silentNow, hold, PortState.polled]
    obtain ⟨_, ⟨lit, hget⟩, _⟩ := offerPower_spec (p := p) (r := r) hp fun _ => by simp [hold]
    have hstate : (t.ports.get p).state = powerReply s := by rw [show t.ports.get p = _ from hget]; simp [hw]
    have hne : powerReply s ≠ (s.ports.get p).state := by
      rw [hold]
      rcases powerReply_eq s with e | e <;> simp [e]
    refine ⟨⟨powerReply s, lit, if powerReply s = .powering then some r.pgMode.wait else r.timer, ?_⟩, ?_,
      by simp [hstate], fun e => absurd (hstate ▸ e) hne, fun _ => ?_⟩
    · rw [show t.ports.get p = _ from hget]
      simp only [hw, if_true, true_and, hsil]
    · rcases powerReply_eq s with e | e
      · refine .inr (.inr ?_)
        rw [show t.ports.get p = _ from hget]
        simp [hw, e]
      · exact .inr (.inl (hstate.trans e))
    · have hmember : hasMember (storePort p r.requested s).host.attention (.port p) = true :=
        storePort_member (by simp [Port.requested, hw, hold])
      show hasMember (offerPower p r s).host.attention _ = true
      simp only [offerPower, hw, if_true]
      exact sequencerTake_keeps hmember

/-- Settles O13: either insertion writes a level and offers the port for power. -/
theorem insertionAsksForPower : Obligations.InsertionAsksForPower := by
  intro p s h hp hl
  have wants : ∀ r : Port, r.wantsPower = true ↔ r.state = .empty ∧ r.present = true ∧ r.latchClosed = true ∧
      r.enabled = true ∧ r.removedNotPulled = false := fun r => by simp [Port.wantsPower, and_assoc]
  constructor
  · obtain ⟨hget, htimer, hstate, hsame, hmem⟩ := offerPower_level (r := { s.ports.get p with present := true })
      hp hl rfl rfl rfl rfl rfl
    obtain ⟨hother, _⟩ := offerPower_spec (p := p) (r := { s.ports.get p with present := true }) hp fun hw => by
      have := ((wants _).mp hw).1
      simp only at this
      simp [this]
    refine ⟨_, exec_event (f := presenceArrives p) rfl h, offerPower_portsOnly .., hother, hget, htimer, ?_, hsame, hmem⟩
    refine hstate.trans (if_congr ?_ rfl rfl)
    rw [wants]
    simp
  · obtain ⟨hget, htimer, hstate, hsame, hmem⟩ := offerPower_level (r := { s.ports.get p with latchClosed := true })
      hp hl rfl rfl rfl rfl rfl
    obtain ⟨hother, _⟩ := offerPower_spec (p := p) (r := { s.ports.get p with latchClosed := true }) hp fun hw => by
      have := ((wants _).mp hw).1
      simp only at this
      simp [this]
    refine ⟨_, exec_event (f := latchCloses p) rfl h, offerPower_portsOnly .., hother, hget, htimer, ?_, hsame, hmem⟩
    refine hstate.trans (if_congr ?_ rfl rfl)
    rw [wants]
    simp

/-! ## O14 to O16: losses, faults and the button -/

/-- What a move that does not end in WAITING does beside its record. -/
theorem movePort_beside {p : Fin 4} {r : Port} {s : State} (hp : PowerLaw s) (hline : LineLaw s) (hw : r.state ≠ .waiting) :
    p ∉ (movePort p r s).powerQueue ∧ OthersKept p s (movePort p r s) ∧
      (s.bus.holder = .free → PortsOnly s (movePort p r s)) :=
  have ⟨_, hq, hother⟩ := movePort_spec hp hw
  ⟨hq, hother, fun hfree => movePort_portsOnly_free hline hfree⟩

/-- Settles O14, by the state of the port. -/
theorem lossesEmptyOrFaultThePort : Obligations.LossesEmptyOrFaultThePort := by
  intro p s h hp hl hline
  refine ⟨⟨presenceLost p s, exec_event (f := presenceLost p) rfl h, ?_⟩, ⟨latchOpens p s, exec_event (f := latchOpens p) rfl h, ?_⟩⟩
  · by_cases he : (s.ports.get p).state = .empty
    · have e : presenceLost p s =
          { s with ports := putAt s.ports p { s.ports.get p with present := false, removedNotPulled := false } } := by
        simp only [presenceLost, if_pos he]
        exact storePort_level hl rfl rfl rfl rfl rfl
      have hq : p ∉ s.powerQueue := not_mem_powerQueue hp (by simp [he])
      rw [e, if_pos he]
      exact ⟨by simp, fun hn => absurd he hn, hq, othersKept_put rfl, fun _ => rfl⟩
    · have e : presenceLost p s = movePort p
          { (s.ports.get p).emptied with present := false, removedNotPulled := false, attempts := 0 } s := by
        simp only [presenceLost, if_neg he]
      obtain ⟨hq, hother, hfree⟩ := movePort_beside (p := p)
        (r := { (s.ports.get p).emptied with present := false, removedNotPulled := false, attempts := 0 }) hp hline (by simp [Port.emptied])
      rw [e, if_neg he]
      exact ⟨movePort_dark hp hl (.inl rfl), fun _ => movePort_member he, hq, hother, hfree⟩
  · cases hst : (s.ports.get p).state with
    | powering | identifying | online | removing =>
      have e : latchOpens p s = movePort p (Port.faulted .latchOpened { s.ports.get p with latchClosed := false }) s := by
        simp only [latchOpens, hst]
      have hne : (s.ports.get p).state ≠ (Port.faulted .latchOpened { s.ports.get p with latchClosed := false }).state := by
        simp [hst, Port.faulted]
      obtain ⟨_, hother, hfree⟩ := movePort_beside (p := p)
        (r := Port.faulted .latchOpened { s.ports.get p with latchClosed := false }) hp hline (by simp [Port.faulted])
      rw [e]
      exact ⟨movePort_faulted hp (by simp [hst]) rfl, fun _ => movePort_member hne, hother, hfree⟩
    | waiting =>
      have e : latchOpens p s = movePort p (Port.emptied { s.ports.get p with latchClosed := false }) s := by
        simp only [latchOpens, hst]
      have hne : (s.ports.get p).state ≠ (Port.emptied { s.ports.get p with latchClosed := false }).state := by
        simp [hst, Port.emptied]
      obtain ⟨_, hother, hfree⟩ := movePort_beside (p := p)
        (r := Port.emptied { s.ports.get p with latchClosed := false }) hp hline (by simp [Port.emptied])
      rw [e]
      exact ⟨movePort_dark hp hl (.inl rfl), fun _ => movePort_member hne, hother, hfree⟩
    | empty | faulted | disabled =>
      have e : latchOpens p s = { s with ports := putAt s.ports p { s.ports.get p with latchClosed := false } } := by
        simp only [latchOpens, hst]
        exact storePort_level hl hst.symm rfl rfl rfl rfl
      rw [e]
      exact ⟨by simp [hst], fun hn => absurd (by simp [hst]) hn, othersKept_put rfl, fun _ => rfl⟩

theorem faultsOnStatus_iff (r : Port) : r.faultsOnStatus = true ↔
    r.state = .identifying ∨ r.state = .online ∨ r.state = .removing ∨ (r.state = .powering ∧ ∃ n, r.timer = some (.fixedDelay n)) := by
  simp only [Port.faultsOnStatus]
  split <;> simp_all

/-- Settles O15: the record decides whether an assertion is a fault. -/
theorem statusAssertionIsAPowerFault : Obligations.StatusAssertionIsAPowerFault := by
  intro p s h hp hl hline
  refine ⟨?_, statusAsserts p s, exec_event (f := statusAsserts p) rfl h, ?_⟩
  · rw [exec_event (f := statusReleases p) rfl h]
    exact congrArg _ (storePort_level hl rfl rfl rfl rfl rfl)
  by_cases hf : Port.faultsOnStatus { s.ports.get p with statusAsserted := true } = true
  · have e : statusAsserts p s = movePort p (Port.faulted .powerFault { s.ports.get p with statusAsserted := true }) s := by
      simp only [statusAsserts, if_pos hf]
    have hst := (faultsOnStatus_iff _).mp hf
    have hne : (s.ports.get p).state ≠ .faulted := by
      rcases hst with e | e | e | ⟨e, _⟩ <;> simp only at e <;> simp [e]
    obtain ⟨_, hother, hfree⟩ := movePort_beside (p := p)
      (r := Port.faulted .powerFault { s.ports.get p with statusAsserted := true }) hp hline (by simp [Port.faulted])
    rw [e]
    refine ⟨fun _ => ⟨movePort_faulted hp hne rfl, movePort_member hne⟩, fun h1 h2 h3 h4 => ?_, hother, hfree⟩
    rcases hst with e | e | e | ⟨e, n, ht⟩
    · exact absurd e h1
    · exact absurd e h2
    · exact absurd e h3
    · exact absurd ht (h4 e n)
  · have e : statusAsserts p s = { s with ports := putAt s.ports p { s.ports.get p with statusAsserted := true } } := by
      simp only [statusAsserts, if_neg hf]
      exact storePort_level hl rfl rfl rfl rfl rfl
    rw [e]
    exact ⟨fun hst => absurd ((faultsOnStatus_iff _).mpr hst) hf, fun _ _ _ _ => rfl, othersKept_put rfl, fun _ => rfl⟩

/-- R14: a record that goes from ONLINE to REMOVING. -/
theorem settled_removing {old r : Port} (hs : old.silent = old.silentNow) (ho : old.state = .online) (hr : r.state = .removing)
    (hc : r.missCount = old.missCount) (hm : r.missLimit = old.missLimit) :
    old.settled r = { r with silent := old.silent, blinkLit := true } := by
  have hn : r.silentNow = old.silent := by simp [hs, Port.silentNow, hr, ho, hc, hm, PortState.polled]
  have hlamp : old.lamp ≠ lampPattern r.state r.silentNow := by simp [Port.lamp, lampPattern, hr, ho]
  rw [settled_eq, settled_blinkLit_new hlamp (by rw [hr]; rfl), hn]

/-- R14: a record that goes from REMOVING back to ONLINE. -/
theorem settled_online {old r : Port} (h : old.silent = old.silentNow ∧ (old.blinkLit = true → old.lamp.blinks = true))
    (ho : old.state = .removing) (hr : r.state = .online) (hc : r.missCount = old.missCount) (hm : r.missLimit = old.missLimit) :
    old.settled r = { r with silent := old.silent, blinkLit := false } := by
  have hn : r.silentNow = old.silent := by simp [h.1, Port.silentNow, hr, ho, hc, hm, PortState.polled]
  rw [settled_eq, settled_blinkLit_steady h.2 (by rw [hr]; rfl), hn]

/-- Settles O16, by the state of the port. -/
theorem theButtonRemovesAHead : Obligations.TheButtonRemovesAHead := by
  intro p s h hp hl hline
  refine ⟨⟨buttonPressed p s, exec_event (f := buttonPressed p) rfl h, ?_⟩, fun n hst ht => ?_⟩
  · cases hst : (s.ports.get p).state with
    | online =>
      have e : buttonPressed p s = movePort p
          { s.ports.get p with button := true, state := .removing, timer := some (.holdOff 5000) } s := by
        simp only [buttonPressed, hst]
      rw [e]
      exact ⟨(movePort_spec hp (by simp)).1.trans (settled_removing (hl p).1 hst rfl rfl rfl),
        fun _ => movePort_member (by simp [hst]), fun hfree => movePort_portsOnly_free hline hfree⟩
    | removing =>
      have e : buttonPressed p s = movePort p { s.ports.get p with button := true, state := .online, timer := none } s := by
        simp only [buttonPressed, hst]
      rw [e]
      exact ⟨(movePort_spec hp (by simp)).1.trans (settled_online (hl p) hst rfl rfl rfl),
        fun _ => movePort_member (by simp [hst]), fun hfree => movePort_portsOnly_free hline hfree⟩
    | waiting =>
      have e : buttonPressed p s = movePort p
          { Port.emptied { s.ports.get p with button := true } with removedNotPulled := true } s := by
        simp only [buttonPressed, hst]
      rw [e]
      exact ⟨movePort_dark hp hl (.inl rfl), fun _ => movePort_member (by simp [hst, Port.emptied]),
        fun hfree => movePort_portsOnly_free hline hfree⟩
    | empty | powering | identifying | faulted | disabled =>
      have e : buttonPressed p s = { s with ports := putAt s.ports p { s.ports.get p with button := true } } := by
        simp only [buttonPressed, hst]
        exact storePort_level hl hst.symm rfl rfl rfl rfl
      rw [e]
      exact ⟨by simp [hst], fun hn => absurd (by simp [hst]) hn, fun _ => rfl⟩
  · have e : holdOffExpires p s = movePort p { (s.ports.get p).emptied with removedNotPulled := true } s := by
      simp [holdOffExpires, Port.awaitsHoldOff, hst, ht]
    refine ⟨_, exec_event (f := holdOffExpires p) rfl h, ?_⟩
    rw [e]
    exact ⟨movePort_dark hp hl (.inl rfl), movePort_member (by simp [hst, Port.emptied]),
      fun hfree => movePort_portsOnly_free hline hfree⟩

/-! ## O17: the power sequencer and power good -/

/-- R8, R9: a record that goes from POWERING to IDENTIFYING keeps the half of its lamp. -/
theorem settled_identifying {old : Port} (hs : old.silent = old.silentNow) (ho : old.state = .powering) :
    old.settled old.identifying =
      { old with state := .identifying, attempts := 0, missCount := 0, identity := none, timer := none, silent := false } := by
  have hsil : old.silent = false := by simp [hs, Port.silentNow, ho, PortState.polled]
  simp [Port.settled, Port.identifying, Port.silentNow, PortState.polled, Port.lamp, lampPattern, ho]

/-- R10: what the beginning of an identification makes of a powered port and of the line. -/
theorem beginIdentify_spec {p : Fin 4} {s : State} (hp : PowerLaw s) (hl : PortLaw s) (hline : LineLaw s)
    (hst : (s.ports.get p).state = .powering) :
    let t := beginIdentify p s
    t.ports.get p = { s.ports.get p with
        state := .identifying, attempts := 0, missCount := 0, identity := none, timer := none, silent := false } ∧
      (s.bus.holder = .free → t.bus.holder = .user (.ident p)) ∧
      (s.bus.holder ≠ .free → t.bus.queue = s.bus.queue ++ [.ident p]) ∧
      hasMember t.host.attention (.port p) = true ∧
      t = { s with ports := t.ports, powerQueue := t.powerQueue, host := t.host, bus := t.bus } := by
  intro t
  have hp1 : PowerLaw (putStatus p ReplyStatus.forNewHead s) := powerLaw_congr hp rfl rfl
  have hmoved := movePort_portsOnly_untapped (p := p) (r := (s.ports.get p).identifying)
    (s := putStatus p ReplyStatus.forNewHead s) (by simp [putStatus, hst, PortState.tapped])
  have hget := (movePort_spec (p := p) (r := (s.ports.get p).identifying) hp1 (by simp [Port.identifying])).1
  have hmem : hasMember (movePort p (s.ports.get p).identifying (putStatus p ReplyStatus.forNewHead s)).host.attention
      (.port p) = true := movePort_member (by simp [putStatus, hst, Port.identifying])
  have hbus : (movePort p (s.ports.get p).identifying (putStatus p ReplyStatus.forNewHead s)).bus =
      (putStatus p ReplyStatus.forNewHead s).bus := by
    unfold PortsOnly at hmoved
    rw [hmoved]
  have hplace := placeUser_ident_effect p (movePort p (s.ports.get p).identifying (putStatus p ReplyStatus.forNewHead s))
  refine ⟨?_, fun hfree => ?_, fun hheld => ?_, (placeUser_marked ..).keeps hmem, ?_⟩
  · show (placeUser _ _).ports.get p = _
    rw [placeUser_ports, hget]
    exact settled_identifying (hl p).1 hst
  · have hq : (movePort p (s.ports.get p).identifying (putStatus p ReplyStatus.forNewHead s)).bus.queue = [] := by
      rw [hbus]; exact hline.free hfree
    show (placeUser _ _).bus.holder = _
    rw [placeUser_free (by rw [hbus]; exact hfree) hq (by simp)]
    rfl
  · show (placeUser _ _).bus.queue = _
    rw [placeUser_held (by rw [hbus]; exact hheld), withBus_bus, hbus]
    rfl
  · obtain ⟨b, hb⟩ := hplace
    show placeUser _ _ = { s with
      ports := (placeUser _ _).ports, powerQueue := (placeUser _ _).powerQueue, host := (placeUser _ _).host,
      bus := (placeUser _ _).bus }
    rw [hb, hmoved]
    rfl

/-- Settles O17: the take of the sequencer, a blink, and the ends of a power-good wait and of a fixed delay. -/
theorem powerIsGivenAndComesGood : Obligations.PowerIsGivenAndComesGood := by
  refine ⟨fun p rest s h hq hno hst => ?_, fun p s h hb => ?_, fun p n s h hp hl hline hst => ⟨fun c hc => ?_, fun ha => ?_,
    fun ht => ?_⟩⟩
  · have ha : anyPowering s.ports = false := (anyPowering_false_iff _).mpr hno
    have e := sequencerTake_front hq ha
    refine ⟨_, exec_event (f := sequencerTake) rfl h, ?_⟩
    rw [e]
    refine ⟨by simp, by simp, ?_, storePort_member (by simp [hst]), fun q hqp => by simp [putAt_get_ne _ _ hqp], ?_⟩
    · rw [storePort_ports, putAt_get_self]
      cases hm : (s.ports.get p).pgMode <;> simp [Port.settled, PgMode.wait]
    · exact (PortsOnly.of_eq (t := { s with powerQueue := rest }) rfl).trans (storePort_portsOnly ..)
  · rw [exec_event (f := lampBlinks p) rfl h]
    simp [lampBlinks, hb]
  · have e : exec c s = .next (beginIdentify p s) := by
      rcases hc with ⟨rfl, hfl, ht⟩ | ⟨rfl, ht⟩
      · rw [exec_event (f := powerComesGood p) rfl h]
        simp [powerComesGood, Port.awaitsPowerGood, hst, ht, hfl]
      · rw [exec_event (f := delayEnds p) rfl h]
        simp [delayEnds, Port.awaitsDelay, hst, ht]
    exact ⟨_, e, beginIdentify_spec hp hl hline hst⟩
  · rw [exec_event (f := powerComesGood p) rfl h]
    simp [powerComesGood, ha]
  · have e : powerTimesOut p s = movePort p ((s.ports.get p).faulted .pgTimeout) s := by
      simp [powerTimesOut, Port.awaitsPowerGood, hst, ht]
    refine ⟨_, exec_event (f := powerTimesOut p) rfl h, ?_⟩
    rw [e]
    exact ⟨movePort_faulted hp (by simp [hst]) rfl, movePort_member (by simp [hst, Port.faulted]),
      movePort_portsOnly_untapped (by simp [hst, PortState.tapped])⟩

end Sys2Proof.Machine
end

section
/-! The sensor bus (chapter 2): the verbs BUS_CONFIG and HEAD_ZERO, and the break. -/

namespace Sys2Proof.Machine

/-! ## O18: BUS_CONFIG and HEAD_ZERO -/

/-- R23: the bit rate is the quotient, or the number above it where the quotient is not whole. -/
theorem bitRate_near (d : Nat) : (16 * (d + 1) ∣ 3686400 → bitRate d * (16 * (d + 1)) = 3686400) ∧
    3686400 / (16 * (d + 1)) ≤ bitRate d ∧ bitRate d ≤ 3686400 / (16 * (d + 1)) + 1 := by
  refine ⟨fun hdvd => ?_, ?_, ?_⟩
  · have hmod : 3686400 % (16 * (d + 1)) = 0 := Nat.mod_eq_zero_of_dvd hdvd
    simp only [bitRate, hmod, ne_eq, not_true_eq_false, false_and, if_false, Nat.add_zero]
    exact Nat.div_mul_cancel hdvd
  · exact Nat.le_add_right ..
  · simp only [bitRate]
    split <;> omega

/-- R23: the bus after BUS_CONFIG. -/
theorem withDivisor_withPeriod (d n : Nat) (b : Bus) :
    let c := (b.withDivisor d).withPeriod n
    c = { b with divisor := c.divisor, pendingDivisor := c.pendingDivisor, period := c.period, cycleLeft := c.cycleLeft } ∧
      c.divisor = (if b.holder = .free then d else b.divisor) ∧
      c.pendingDivisor = (if b.holder = .free ∨ d = b.divisor then none else some d) ∧
      c.period = n ∧ c.cycleLeft = (if n = b.period then b.cycleLeft else some (n * 1000)) := by
  intro c
  have hperiod : ∀ x : Bus, x.withPeriod n = { x with
      period := n, cycleLeft := if n = x.period then x.cycleLeft else some (n * 1000) } := by
    intro x
    simp only [Bus.withPeriod]
    split
    · next e => subst e; rfl
    · rfl
  have hdivisor : b.withDivisor d = { b with
      divisor := if b.holder = .free then d else b.divisor
      pendingDivisor := if b.holder = .free ∨ d = b.divisor then none else some d } := by
    simp only [Bus.withDivisor]
    split
    · next e => simp [e]
    · next e => split <;> next hf => simp [hf, e]
  have hc : c = (b.withDivisor d).withPeriod n := rfl
  rw [hc, hperiod, hdivisor]
  exact ⟨rfl, rfl, rfl, rfl, rfl⟩

/-- The arrival of a port's user: the line is taken, or the user waits at the back of the queue. -/
theorem placeUser_eq {u : LineUser} (hu : u ≠ .round) (s : State) : placeUser u s =
    if s.bus.holder = .free ∧ s.bus.queue = [] then withBus (fun b => { b with queue := [] }.taken u []) s
    else withBus (fun b => { b with queue := b.queue ++ [u] }) s := by
  simp only [placeUser]
  split
  · cases u with
    | round => exact absurd rfl hu
    | ident p => rfl
    | zero p => rfl
  · rfl

/-- Settles O18, by the checks of the two verbs in their order. -/
theorem busConfigAndHeadZeroAreTaken : Obligations.BusConfigAndHeadZeroAreTaken := by
  refine ⟨bitRate_near, fun divisor period s h hi => ⟨fun hd => ?_, fun hd => ?_, fun port p hport => ⟨fun hno => ?_,
    fun hon hpr => ⟨fun hpen => ?_, fun hpen => ?_⟩⟩⟩⟩
  · refine verb_answers (n := 5) h hi (by decide) (block := busConfig divisor period) ?_
    simp [busConfig, hd, refuse]
  · obtain ⟨hframe, hdiv, hpend, hper, hleft⟩ :=
      withDivisor_withPeriod divisor.toNat (clampNat 1 3600 period.toNat) s.bus
    refine ⟨(s.bus.withDivisor divisor.toNat).withPeriod (clampNat 1 3600 period.toNat),
      verb_answers (n := 5) h hi (by decide) (block := busConfig divisor period) ?_, hframe, hdiv, hpend, hper, ?_⟩
    · simp only [busConfig, if_neg (Nat.not_lt.mpr hd)]
      rfl
    · rw [hleft, hper]
  · refine verb_answers (n := 2) h hi (by decide) (block := headZero port) ?_
    simp only [headZero, keyOf_eq_some hport, if_pos hno]
    rfl
  · refine verb_answers (n := 2) h hi (by decide) (block := headZero port) ?_
    simp [headZero, keyOf_eq_some hport, hon, hpr, hpen, refuse]
  · have hb : headZero port s =
        (placeUser (.zero p) (putStatus p (fun x => { x with zero := .pending }) s), ⟨.ok, .nil⟩) := by
      simp [headZero, keyOf_eq_some hport, hon, hpr, hpen]
    refine ⟨_, verb_answers (n := 2) h hi (by decide) hb, ?_⟩
    rw [placeUser_eq (by simp)]
    split
    · next hfree =>
      exact ⟨rfl, rfl, fun _ _ => ⟨rfl, rfl⟩, fun hheld => absurd hfree.1 hheld⟩
    · next hheld =>
      exact ⟨rfl, rfl, fun h1 h2 => absurd ⟨h1, h2⟩ hheld, fun _ => ⟨rfl, rfl⟩⟩

/-! ## O19: the break -/

/-- R36: a port's zero outcome at a break. -/
theorem cancelZeros_fold (c : Fin 4 → Bool) (l : List (Fin 4)) (t : State) :
    let u := l.foldl (fun t p => if c p then zeroEnds p .cancelled t else t) t
    u = { t with bus := { t.bus with status := u.bus.status }, host := { t.host with attention := u.host.attention } } ∧
      ∀ p, c p = true → (p ∈ l ∨ ((t.bus.status.get p).zero = .cancelled ∧ hasMember t.host.attention (.port p) = true)) →
        (u.bus.status.get p).zero = .cancelled ∧ hasMember u.host.attention (.port p) = true := by
  induction l generalizing t with
  | nil => exact ⟨rfl, fun p _ hp => hp.resolve_left (by simp)⟩
  | cons a l ih =>
    obtain ⟨hframe, hzero⟩ := ih (if c a then zeroEnds a .cancelled t else t)
    rw [List.foldl_cons]
    refine ⟨?_, fun p hc hp => hzero p hc ?_⟩
    · refine hframe.trans ?_
      split <;> rfl
    · by_cases hpl : p ∈ l
      · exact .inl hpl
      by_cases hpa : p = a
      · subst hpa
        rw [if_pos hc]
        exact .inr ⟨by simp [zeroEnds, addMember], by simp [zeroEnds, addMember]⟩
      · obtain ⟨hz, hm⟩ := hp.resolve_left (by simp [hpl, hpa])
        refine .inr ?_
        split
        · refine ⟨?_, (zeroEnds_marked ..).keeps hm⟩
          simpa [zeroEnds, addMember, putAt_get_ne _ _ hpa] using hz
        · exact ⟨hz, hm⟩

theorem storePort_effect (p : Fin 4) (r : Port) (s : State) : ∃ att, storePort p r s =
    { s with ports := putAt s.ports p ((s.ports.get p).settled r), host := { s.host with attention := att } } := by
  simp only [storePort, addMemberIf]
  split <;> exact ⟨_, rfl⟩

/-- R18: what a break leaves of a state when it has come by some ports: the claims of those that have a tap stand behind
the line's queue, and their records restart. -/
structure Reidentified (l : List (Fin 4)) (s t : State) : Prop where
  frame : t = { s with
    ports := t.ports
    bus := { s.bus with
      status := t.bus.status
      queue := s.bus.queue ++ (l.filter fun p => decide ((s.ports.get p).state.tapped = true)).map LineUser.ident }
    host := { s.host with attention := t.host.attention } }
  marked : Marked s t
  zero : ∀ p, (t.bus.status.get p).zero = (s.bus.status.get p).zero
  still : ∀ p, p ∉ l ∨ (s.ports.get p).state.tapped = false → t.ports.get p = s.ports.get p
  restarts : ∀ p, p ∈ l → (s.ports.get p).state.tapped = true →
    t.ports.get p = (s.ports.get p).settled (s.ports.get p).identifying

theorem forNewHead_zero_at (v : Vector ReplyStatus 4) (p q : Fin 4) :
    ((putAt v p (v.get p).forNewHead).get q).zero = (v.get q).zero := by
  by_cases h : q = p
  · subst h; simp [ReplyStatus.forNewHead]
  · rw [putAt_get_ne _ _ h]

/-- R18: what a break does to one port, on a line that is held. -/
theorem reidentify_spec {p : Fin 4} {s : State} (h : s.bus.holder ≠ .free) : Reidentified [p] s (reidentify p s) := by
  have others : ∀ (r : Port) (q : Fin 4), q ∉ [p] ∨ (s.ports.get q).state.tapped = false →
      (s.ports.get p).state.tapped = true → (putAt s.ports p r).get q = s.ports.get q := by
    intro r q hq ht
    refine putAt_get_ne _ _ fun e => ?_
    subst e
    simp [ht] at hq
  obtain ⟨att, hs⟩ := storePort_effect p (s.ports.get p).identifying s
  obtain ⟨att', hs'⟩ := storePort_effect p (s.ports.get p).identifying (putStatus p ReplyStatus.forNewHead s)
  cases hst : (s.ports.get p).state with
  | empty | waiting | powering | faulted | disabled =>
    have e : reidentify p s = s := by simp only [reidentify, hst]
    rw [e]
    refine ⟨by simp [hst, PortState.tapped], .refl s, fun _ => rfl, fun _ _ => rfl, fun q hq ht => ?_⟩
    obtain rfl := List.mem_singleton.mp hq
    simp [hst, PortState.tapped] at ht
  | online | removing =>
    have e : reidentify p s = withBus (fun b => { b with queue := b.queue ++ [.ident p] })
        (storePort p (s.ports.get p).identifying (putStatus p ReplyStatus.forNewHead s)) := by
      simp only [reidentify, hst]
      exact placeUser_held (by simpa using h)
    have hm : Marked s (reidentify p s) :=
      e ▸ ((putStatus_marked ..).trans (storePort_marked ..)).trans (withBus_marked ..)
    refine ⟨?_, hm, fun q => ?_, fun q hq => ?_, fun q hq _ => ?_⟩
    · rw [e, hs']
      simp [withBus, putStatus, hst, PortState.tapped]
    · rw [e, hs']
      exact forNewHead_zero_at ..
    · rw [e]
      simpa using others _ q hq (by simp [hst, PortState.tapped])
    · obtain rfl := List.mem_singleton.mp hq
      rw [e]
      simp
  | identifying =>
    have e : reidentify p s = withBus (fun b => { b with queue := b.queue ++ [.ident p] })
        (storePort p (s.ports.get p).identifying s) := by
      simp only [reidentify, hst]
      exact placeUser_held (by simpa using h)
    have hm : Marked s (reidentify p s) := e ▸ (storePort_marked ..).trans (withBus_marked ..)
    refine ⟨?_, hm, fun q => ?_, fun q hq => ?_, fun q hq _ => ?_⟩
    · rw [e, hs]
      simp [withBus, hst, PortState.tapped]
    · rw [e, hs]
      rfl
    · rw [e]
      simpa using others _ q hq (by simp [hst, PortState.tapped])
    · obtain rfl := List.mem_singleton.mp hq
      rw [e]
      simp

/-- The second state differs from the first in the bus, the ports and the host's record alone. -/
def BusAndPorts (s t : State) : Prop := t = { s with bus := t.bus, ports := t.ports, host := t.host }

theorem BusAndPorts.of_eq {s t : State} {b : Bus} {v : Vector Port 4} {h : CommandPort}
    (e : t = { s with bus := b, ports := v, host := h }) : BusAndPorts s t := by
  subst e
  rfl

theorem BusAndPorts.trans {s t u : State} (h1 : BusAndPorts s t) (h2 : BusAndPorts t u) : BusAndPorts s u := by
  unfold BusAndPorts at h1 h2
  rw [h1] at h2
  exact .of_eq h2

/-- R18: the ports of a list, one after the other. -/
theorem reidentify_fold (l : List (Fin 4)) (s : State) (h : s.bus.holder ≠ .free) (hl : l.Nodup) :
    Reidentified l s (l.foldl (fun t p => reidentify p t) s) := by
  induction l generalizing s with
  | nil =>
    exact ⟨by simp, .refl s, fun _ => rfl, fun _ _ => rfl, fun q hq => absurd hq (by simp)⟩
  | cons a l ih =>
    obtain ⟨ha, hl⟩ := List.nodup_cons.mp hl
    have h1 := reidentify_spec (p := a) h
    have hheld : (reidentify a s).bus.holder ≠ .free := by rw [h1.frame]; exact h
    have h2 := ih (reidentify a s) hheld hl
    have hsame : ∀ q ∈ l, (reidentify a s).ports.get q = s.ports.get q :=
      fun q hq => h1.still q (.inl fun e => ha (List.mem_singleton.mp e ▸ hq))
    have hfilter : (l.filter fun p => decide (((reidentify a s).ports.get p).state.tapped = true)) =
        l.filter fun p => decide ((s.ports.get p).state.tapped = true) :=
      List.filter_congr fun q hq => by rw [hsame q hq]
    rw [List.foldl_cons]
    refine ⟨?_, h1.marked.trans h2.marked, fun q => (h2.zero q).trans (h1.zero q), fun q hq => ?_, fun q hq ht => ?_⟩
    · refine h2.frame.trans ?_
      rw [hfilter]
      generalize l.foldl (fun t p => reidentify p t) (reidentify a s) = u
      rw [h1.frame]
      cases hst : (s.ports.get a).state.tapped <;> simp [hst]
    · have hstep : (reidentify a s).ports.get q = s.ports.get q := by
        refine h1.still q ?_
        rcases hq with hq | hq
        · exact .inl fun e => hq (by simp [List.mem_singleton.mp e])
        · exact .inr hq
      rw [← hstep]
      refine h2.still q ?_
      rcases hq with hq | hq
      · exact .inl fun e => hq (List.mem_cons_of_mem _ e)
      · exact .inr (by rw [hstep]; exact hq)
    · by_cases hqa : q = a
      · subst hqa
        rw [h2.still q (.inl ha), h1.restarts q (by simp) ht]
      · have hql : q ∈ l := (List.mem_cons.mp hq).resolve_left hqa
        rw [h2.restarts q hql (by rw [hsame q hql]; exact ht), hsame q hql]

/-- Settles O19: the zeros are cancelled, the line is broken, and the ports restart in their order. -/
theorem theBreakRestartsEveryHead : Obligations.TheBreakRestartsEveryHead := by
  intro s h hi
  refine ⟨fun hb => ?_, fun h1 h2 => ?_⟩
  · refine verb_answers (n := 1) h hi (by decide) (block := busRestart) ?_
    rcases hb with e | e <;> simp only [busRestart, e] <;> rfl
  · have hb : busRestart s = (breakBegins s, ⟨.ok, .nil⟩) := by
      simp only [busRestart]
      split
      · next e => exact absurd e h1
      · next e => exact absurd e h2
      · rfl
      · rfl
    have hc : cancelZeros s = { s with
        bus := { s.bus with status := (cancelZeros s).bus.status }
        host := { s.host with attention := (cancelZeros s).host.attention } } :=
      (cancelZeros_fold s.bus.hasZero (List.finRange 4) s).1
    have hzero := (cancelZeros_fold s.bus.hasZero (List.finRange 4) s).2
    have hr : Reidentified (List.finRange 4) (withBus Bus.broken (cancelZeros s)) (breakBegins s) :=
      reidentify_fold (List.finRange 4) _ (by simp [Bus.broken]) (List.nodup_finRange 4)
    have hports : (cancelZeros s).ports = s.ports := by rw [hc]
    have hqueue : (cancelZeros s).bus.queue = s.bus.queue := by rw [hc]
    have hbus : (breakBegins s).bus = { (withBus Bus.broken (cancelZeros s)).bus with
        status := (breakBegins s).bus.status
        queue := (s.bus.queue.filter fun u => u == .round) ++
          ((List.finRange 4).filter fun p => decide ((s.ports.get p).state.tapped = true)).map LineUser.ident } := by
      refine (congrArg State.bus hr.frame).trans ?_
      simp only [withBus_ports, hports, withBus_bus, Bus.broken, hqueue]
    refine ⟨_, verb_answers (n := 1) h hi (by decide) hb, ?_, rfl, ?_, ?_, ?_, ?_, fun p => ⟨fun ht => ?_, fun ht => ?_,
      fun hz => ?_⟩⟩
    · have hbroken : BusAndPorts (cancelZeros s) (withBus Bus.broken (cancelZeros s)) := .of_eq rfl
      have hbegun : BusAndPorts (withBus Bus.broken (cancelZeros s)) (breakBegins s) := .of_eq hr.frame
      exact (((BusAndPorts.of_eq hc).trans hbroken).trans hbegun).trans (.of_eq rfl)
    · rw [respond_bus, hbus]; rfl
    · rw [respond_bus, hbus]; rfl
    · rw [respond_bus, hbus]; rfl
    · rw [respond_bus, hbus]
    · exact (hr.still p (.inr (by simpa [hports] using ht))).trans (by rw [withBus_ports, hports])
    · have e := hr.restarts p (List.mem_finRange p) (by simpa [hports] using ht)
      have e' : (breakBegins s).ports.get p = (s.ports.get p).settled (s.ports.get p).identifying := by
        refine e.trans ?_
        rw [withBus_ports, hports]
      rw [respond_ports, e', settled_eq]
      exact ⟨rfl, rfl, rfl, rfl, rfl⟩
    · have hcancelled : ((cancelZeros s).bus.status.get p).zero = .cancelled ∧
          hasMember (cancelZeros s).host.attention (.port p) = true := hzero p hz (.inl (List.mem_finRange p))
      rw [respond_bus, respond_attention, hr.zero p]
      exact ⟨hcancelled.1, hr.marked.keeps hcancelled.2⟩

end Sys2Proof.Machine
end

section
/-! A close from end to end (R41, R67, R86, R94, R102, R119): what the takers of a flow sample rewrite and which attention
members each adds, and the line's grants and turns, with the statements about the stage cycle, the line and the polls. -/

namespace Sys2Proof.Machine

/-! ## The gaugings rewritten one by one -/

/-- What one turn of the rewriting of every gauging does. -/
def putGaugingAt (f : Gauging → Gauging) (s : State) (n : Fin 4) : State :=
  match s.gaugings.get n with
  | some g => putGauging n (f g) s
  | none => s

theorem putEachGauging_eq (f : Gauging → Gauging) (s : State) :
    putEachGauging f s = (List.finRange 4).foldl (putGaugingAt f) s := rfl

theorem putGaugingAt_gaugings (f : Gauging → Gauging) (s : State) (n q : Fin 4) :
    (putGaugingAt f s n).gaugings.get q = if q = n then (s.gaugings.get q).map f else s.gaugings.get q := by
  simp only [putGaugingAt]
  by_cases h : q = n
  · subst h
    cases hg : s.gaugings.get q with
    | none => simp [hg]
    | some g => simp
  · cases hg : s.gaugings.get n with
    | none => simp [h]
    | some g => simp [h, putAt_get_ne _ _ h]

theorem putGaugingAt_fold (f : Gauging → Gauging) (l : List (Fin 4)) (hl : l.Nodup) (s : State) (q : Fin 4) :
    ((l.foldl (putGaugingAt f) s).gaugings.get q) = if q ∈ l then (s.gaugings.get q).map f else s.gaugings.get q := by
  induction l generalizing s with
  | nil => simp
  | cons n l ih =>
    obtain ⟨hn, hl⟩ := List.nodup_cons.mp hl
    rw [List.foldl_cons, ih hl, putGaugingAt_gaugings]
    by_cases h : q = n
    · subst h; simp [hn]
    · simp [h]

/-- Every installed gauging is rewritten. -/
theorem putEachGauging_get (f : Gauging → Gauging) (s : State) (q : Fin 4) :
    (putEachGauging f s).gaugings.get q = (s.gaugings.get q).map f := by
  rw [putEachGauging_eq, putGaugingAt_fold f _ (List.nodup_finRange 4), if_pos (List.mem_finRange q)]

theorem vector_ext_get {α : Type} {n : Nat} {v w : Vector α n} (h : ∀ k : Fin n, v.get k = w.get k) : v = w :=
  Vector.ext fun i hi => h ⟨i, hi⟩

/-- The rewriting of the gaugings reads the gaugings alone. -/
theorem putEachGauging_congr (f : Gauging → Gauging) {s t : State} (h : t.gaugings = s.gaugings) :
    (putEachGauging f t).gaugings = (putEachGauging f s).gaugings :=
  vector_ext_get fun q => by rw [putEachGauging_get, putEachGauging_get, h]

/-! ## Which members the cableway and the gauging unit add -/

/-- R139, R175: whether a member belongs to the cableway controller or to the gauging unit. -/
def Member.survey : Member → Bool
  | .gauging _ | .cableway => true
  | .port _ | .busError | .roundOverrun | .sourceChange | .qualityChange | .ratingSwap | .watch _ => false

/-- The members of the ports, the line, the selector, the ratings and the watches stand as they were. -/
structure SurveyOnly (s t : State) : Prop where
  same : ∀ m : Member, m.survey = false → hasMember t.host.attention m = hasMember s.host.attention m

theorem SurveyOnly.of_eq {s t : State} (h : t.host.attention = s.host.attention) : SurveyOnly s t := ⟨fun m _ => by rw [h]⟩

theorem SurveyOnly.trans {s t u : State} (h1 : SurveyOnly s t) (h2 : SurveyOnly t u) : SurveyOnly s u :=
  ⟨fun m hm => (h2.same m hm).trans (h1.same m hm)⟩

theorem hasMember_addMemberIf (c : Bool) (m n : Member) (s : State) :
    hasMember (addMemberIf c m s).host.attention n = (hasMember s.host.attention n || (c && decide (n = m))) := by
  cases c with
  | false => simp [addMemberIf]
  | true => simp [addMemberIf, hasMember_withMember]

theorem addMemberIf_surveyOnly (c : Bool) {m : Member} (hm : m.survey = true) (s : State) :
    SurveyOnly s (addMemberIf c m s) := ⟨fun n hn => by
  have hne : n ≠ m := fun e => by rw [e, hm] at hn; exact absurd hn (by simp)
  rw [hasMember_addMemberIf, decide_eq_false hne, Bool.and_false, Bool.or_false]⟩

theorem putCarriage_surveyOnly (c : Carriage) (s : State) : SurveyOnly s (putCarriage c s) := by
  refine SurveyOnly.trans (.of_eq ?_) (addMemberIf_surveyOnly _ (m := .cableway) rfl _)
  rfl

theorem putGauging_surveyOnly (n : Fin 4) (g : Gauging) (s : State) : SurveyOnly s (putGauging n g s) := by
  refine SurveyOnly.trans (.of_eq ?_) (addMemberIf_surveyOnly _ (m := .gauging n) rfl _)
  rfl

theorem putGaugingAt_surveyOnly (f : Gauging → Gauging) (s : State) (n : Fin 4) : SurveyOnly s (putGaugingAt f s n) := by
  simp only [putGaugingAt]
  split
  · exact putGauging_surveyOnly ..
  · exact .of_eq rfl

theorem putEachGauging_surveyOnly (f : Gauging → Gauging) (s : State) : SurveyOnly s (putEachGauging f s) :=
  foldl_invariant (SurveyOnly s) (putGaugingAt f) (fun _ n h => h.trans (putGaugingAt_surveyOnly f _ n)) _ (.of_eq rfl)

theorem gaugingWithdraw_surveyOnly (s : State) : SurveyOnly s (gaugingWithdraw s) := by
  unfold gaugingWithdraw
  exact putEachGauging_surveyOnly ..

theorem gaugingTakeFlow_surveyOnly (x : StageSample) (s : State) : SurveyOnly s (gaugingTakeFlow x s) := by
  unfold gaugingTakeFlow
  exact putEachGauging_surveyOnly ..

theorem gaugingTakeFlow_congr (x : StageSample) {s t : State} (h : t.gaugings = s.gaugings) :
    (gaugingTakeFlow x t).gaugings = (gaugingTakeFlow x s).gaugings := by
  unfold gaugingTakeFlow
  exact putEachGauging_congr _ h

theorem carriageWithdraw_surveyOnly (s : State) : SurveyOnly s (carriageWithdraw s) := by
  simp only [carriageWithdraw]
  split
  · exact putCarriage_surveyOnly ..
  · exact .of_eq rfl

theorem putWatches_surveyOnly (u : WatchUnit) (s : State) : SurveyOnly s (putWatches u s) := by
  simp only [putWatches]
  split
  · exact (SurveyOnly.of_eq (s := s) (t := { s with watches := u.settled }) rfl).trans
      ((carriageWithdraw_surveyOnly _).trans (gaugingWithdraw_surveyOnly _))
  · exact .of_eq rfl

/-! ## What a rewrite of the watches does beside them -/

/-- R117: the delivery of a demand's rise reads the carriage, the meter, the gaugings and the demand alone. -/
theorem putWatches_congr (u : WatchUnit) {s t : State} (hw : t.watches.demand = s.watches.demand)
    (hc : t.carriage = s.carriage) (hm : t.meter = s.meter) (hg : t.gaugings = s.gaugings) :
    (putWatches u t).carriage = (putWatches u s).carriage ∧ (putWatches u t).meter = (putWatches u s).meter ∧
      (putWatches u t).gaugings = (putWatches u s).gaugings := by
  simp only [putWatches, hw]
  split
  · refine ⟨?_, ?_, putEachGauging_congr _ ?_⟩
    all_goals simp only [gaugingWithdraw, putEachGauging_carriage, putEachGauging_meter, carriageWithdraw, hc]
    all_goals split <;> simp [hm, hg, putCarriage]
  · exact ⟨hc, hm, hg⟩

/-! ## The members of a close -/

theorem markWatches_fold (test : Fin 24 → Bool) (l : List (Fin 24)) (s : State) (m : Member) :
    hasMember (l.foldl (fun s k => addMemberIf (test k) (.watch k) s) s).host.attention m =
      (hasMember s.host.attention m || decide (∃ k ∈ l, test k = true ∧ m = .watch k)) := by
  induction l generalizing s with
  | nil => simp
  | cons a l ih =>
    rw [List.foldl_cons, ih, hasMember_addMemberIf, Bool.or_assoc]
    congr 1
    rw [Bool.eq_iff_iff]
    simp

/-- R119: the members that the watches of a table add. -/
theorem hasMember_markWatches (test : Fin 24 → Bool) (s : State) (m : Member) :
    hasMember (markWatches test s).host.attention m =
      (hasMember s.host.attention m || decide (∃ k, test k = true ∧ m = .watch k)) := by
  refine (markWatches_fold test (List.finRange 24) s m).trans ?_
  simp

/-- R69: an evaluation rewrites the state of a slot exactly when a slot is eligible. -/
theorem evaluationMoves_eq (t : Nat) (st : RatingStore) : evaluationMoves t st =
    decide (∃ k : Fin 3, ((evaluateStore t st).slots.get k).state ≠ (st.slots.get k).state) := by
  cases h : evaluationMoves t st with
  | false => simp [evaluateStore_none h]
  | true =>
    obtain ⟨k, hk⟩ := (any_eligible_iff t st.slots).mp h
    have hc : contests t (st.slots.get k) = true := by simp [contests, eligible, hk]
    refine (decide_eq_true ⟨k, ?_⟩).symm
    rw [evaluateStore_some h, mapTable_get]
    simp only [evaluated, hc, if_true, hk.1]
    split <;> simp

theorem closeSelector_sample (t : Nat) (ports : Vector Port 4) (recs : List ReadingRecord) (sel : Selector) :
    ∃ x, (closeSelector t ports recs sel).lastSample = some x ∧ x.time = t := by
  simp only [closeSelector]
  split
  · exact ⟨_, rfl, rfl⟩
  · simp only [closeEmpty]
    split <;> exact ⟨_, rfl, rfl⟩

/-- The second state differs from the first in what a close rewrites alone. -/
def CloseOnly (s t : State) : Prop := t = { s with
  selector := t.selector, ratings := t.ratings, lastFlow := t.lastFlow, watches := t.watches, carriage := t.carriage
  meter := t.meter, gaugings := t.gaugings, host := { s.host with attention := t.host.attention } }

theorem handRound_closeOnly (recs : List ReadingRecord) (s : State) : CloseOnly s (handRound recs s) :=
  State.eq_of_fields (by simp) (CommandPort.eq_of_fields (by simp) (by simp) (by simp) (by simp) rfl (by simp) (by simp))
    (by simp) (by simp) (by simp) rfl rfl rfl rfl rfl rfl rfl (by simp) (by simp)

theorem flowOf_sample (store : RatingStore) (x : StageSample) : (flowOf store x).sample = x := by
  simp only [flowOf]
  (repeat' split) <;> rfl

/-- R94: a flow sample published is kept, marks the watches that it moves, and is taken by the watches and the gaugings. -/
theorem publishFlow_eq (x : FlowSample) (s : State) {table : Vector (Option Watch) 24}
    (h : table = mapTable (fun _ w => w.map (Watch.take x)) s.watches.table) : publishFlow x s =
      gaugingTakeFlow x.sample (putWatches { s.watches with table := table }
        (markWatches (fun k => watchMoved (s.watches.table.get k) (table.get k)) { s with lastFlow := some x })) := by
  subst h
  rfl

/-- R102, R117, R164: what a flow sample published comes to, and the members of its watches. -/
structure FlowTaken (x : FlowSample) (s t : State) : Prop where
  table : ∀ k, t.watches.table.get k = (s.watches.table.get k).map fun v => v.take x
  settled : t.watches = { s.watches with table := t.watches.table }.settled
  carriage : t.carriage = (putWatches { s.watches with table := t.watches.table } s).carriage
  meter : t.meter = (putWatches { s.watches with table := t.watches.table } s).meter
  gaugings : t.gaugings = (gaugingTakeFlow x.sample (putWatches { s.watches with table := t.watches.table } s)).gaugings
  members : ∀ m : Member, m.survey = false → hasMember t.host.attention m = (hasMember s.host.attention m ||
    decide (∃ k, m = .watch k ∧ (t.watches.table.get k).map (·.state) ≠ (s.watches.table.get k).map (·.state)))

theorem publishFlow_taken (x : FlowSample) (s : State) : FlowTaken x s (publishFlow x s) := by
  obtain ⟨table, htable⟩ : ∃ table, table = mapTable (fun _ w => w.map (Watch.take x)) s.watches.table := ⟨_, rfl⟩
  have e := publishFlow_eq x s htable
  have hwatches : (publishFlow x s).watches = { s.watches with table := table }.settled := by rw [e]; simp
  generalize publishFlow x s = t at e hwatches ⊢
  have ht : t.watches.table = table := by rw [hwatches]; rfl
  obtain ⟨hc, hme, hg⟩ := putWatches_congr { s.watches with table := table } (s := s)
    (t := markWatches (fun k => watchMoved (s.watches.table.get k) (table.get k)) { s with lastFlow := some x })
    (by simp) (by simp) (by simp) (by simp)
  constructor
  case table => intro k; rw [ht, htable, mapTable_get]
  case settled => rw [ht, hwatches]
  case carriage => rw [ht, e, gaugingTakeFlow_carriage, hc]
  case meter => rw [ht, e, gaugingTakeFlow_meter, hme]
  case gaugings => rw [ht, e, gaugingTakeFlow_congr _ hg]
  case members =>
    intro m hm
    rw [ht, e, (gaugingTakeFlow_surveyOnly ..).same m hm, (putWatches_surveyOnly ..).same m hm, hasMember_markWatches]
    congr 1
    rw [decide_eq_decide]
    refine exists_congr fun k => ?_
    simp only [watchMoved, bne_iff_ne]
    exact ⟨fun ⟨h1, h2⟩ => ⟨h2, fun e => h1 e.symm⟩, fun ⟨h1, h2⟩ => ⟨fun e => h2 e.symm, h1⟩⟩

/-- R57: the members of a stage sample. -/
theorem hasMember_markSample (q : Quality) (x : StageSample) (s : State) (m : Member) :
    hasMember (markSample q x s).host.attention m = (hasMember s.host.attention m ||
      (x.sourceChanged && decide (m = .sourceChange)) || (q != x.quality && decide (m = .qualityChange))) := by
  rw [markSample, hasMember_addMemberIf, hasMember_addMemberIf]

/-- R69: the member of an evaluation. -/
theorem hasMember_evaluateRatings (t : Nat) (s : State) (m : Member) :
    hasMember (evaluateRatings t s).host.attention m = (hasMember s.host.attention m ||
      (evaluationMoves t s.ratings && decide (m = .ratingSwap))) := by
  rw [evaluateRatings, hasMember_addMemberIf]

/-- R41, R67, R86, R94, R102, R119: a round's result handed to the selector. -/
theorem handRound_closesWith (recs : List ReadingRecord) (s : State) : closesWith s (handRound recs s) s.ports recs := by
  obtain ⟨x, hx, htime⟩ := closeSelector_sample s.host.time s.ports recs s.selector
  obtain ⟨b, hb⟩ : ∃ b, b = evaluateRatings s.host.time (markSample s.selector.previousQuality x
      { s with selector := closeSelector s.host.time s.ports recs s.selector }) := ⟨_, rfl⟩
  have e : handRound recs s = publishFlow (flowOf b.ratings x) b := by
    simp only [handRound, hx, publishSample, htime, ← hb]
  have hsel : (handRound recs s).selector = closeSelector s.host.time s.ports recs s.selector := by
    rw [e, hb]; simp [publishFlow, watchesTake]
  have hratings : (handRound recs s).ratings = evaluateStore s.host.time s.ratings := by
    rw [e, hb]; simp [publishFlow, watchesTake, evaluateRatings]
  have hbr : b.ratings = (handRound recs s).ratings := by rw [hratings, hb]; simp [evaluateRatings]
  have hflow : (handRound recs s).lastFlow = some (flowOf b.ratings x) := by
    rw [e]; simp [publishFlow, watchesTake]
  have htaken := publishFlow_taken (flowOf b.ratings x) b
  rw [← e] at htaken
  rw [hbr] at hflow htaken
  generalize handRound recs s = t at *
  obtain ⟨hc, hme, hg⟩ := putWatches_congr { s.watches with table := t.watches.table } (s := s) (t := b)
    (by simp [hb]) (by simp [hb]) (by simp [hb]) (by simp [hb])
  obtain ⟨htable, hset, hcar, hmet, hgau, hmem⟩ := htaken
  have hbw : b.watches = s.watches := by simp [hb]
  rw [hbw] at htable hset hcar hmet hgau hmem
  rw [flowOf_sample] at hgau
  have hmembers : ∀ m : Member, m.survey = false → hasMember t.host.attention m = (((hasMember s.host.attention m ||
      (x.sourceChanged && decide (m = .sourceChange))) || (s.selector.previousQuality != x.quality && decide (m = .qualityChange)) ||
      (evaluationMoves s.host.time s.ratings && decide (m = .ratingSwap))) ||
      decide (∃ k, m = .watch k ∧ (t.watches.table.get k).map (·.state) ≠ (s.watches.table.get k).map (·.state))) := by
    intro m hm
    rw [hmem m hm, hb, hasMember_evaluateRatings, markSample_ratings, hasMember_markSample]
  refine ⟨x, _, _, hsel, hsel ▸ hx, htime, hratings, rfl, hflow, htable, hset, rfl, hcar.trans hc, hmet.trans hme,
    hgau.trans (gaugingTakeFlow_congr _ hg), ?_, ?_, ?_, fun k => ?_⟩
  · rw [hmembers _ rfl]
    simp
  · rw [hmembers _ rfl]
    have hq : (s.selector.previousQuality != x.quality) = decide (x.quality ≠ s.selector.previousQuality) := by
      rw [Bool.eq_iff_iff, bne_iff_ne, decide_eq_true_eq, ne_comm]
    show _ = (_ || decide (x.quality ≠ s.selector.previousQuality))
    rw [hq]
    simp
  · rw [hmembers _ rfl, evaluationMoves_eq, hratings]
    simp
  · rw [hmembers _ rfl]
    simp

/-! ## O20: the stage cycle -/

/-- R31: a queue whose front is a port's user, or a round with members, is granted to it. -/
theorem grantFrom_user {u : LineUser} (hu : u ≠ .round) (rest : List LineUser) (s : State) : grantFrom (u :: rest) s =
    { s with bus := { s.bus with holder := .user u, phase := .awaitFrame, roundTodo := [], roundPolls := [], queue := rest } } := by
  cases u with
  | round => exact absurd rfl hu
  | ident p => rfl
  | zero p => rfl

theorem grantFrom_round (rest : List LineUser) {s : State} (h : roundMembers s.ports ≠ []) : grantFrom (.round :: rest) s =
    { s with bus := { s.bus with
        holder := .user .round, phase := .awaitFrame, roundTodo := roundMembers s.ports, roundPolls := [], queue := rest } } := by
  have he : (roundMembers s.ports).isEmpty = false := by simpa using h
  simp only [grantFrom, he]
  rfl

theorem grantFrom_nobody (rest : List LineUser) {s : State} (h : roundMembers s.ports = []) :
    grantFrom (.round :: rest) s = grantFrom rest (handRound [] s) := by
  simp only [grantFrom, h, List.isEmpty_nil, if_true]

theorem grantFrom_nil {s : State} (h : s.bus.queue = []) : grantFrom [] s = s := by
  simp only [grantFrom, withBus]
  exact State.eq_of_fields rfl rfl rfl rfl (by cases hb : s.bus; simp_all) rfl rfl rfl rfl rfl rfl rfl rfl rfl

theorem hasRound_iff (b : Bus) : b.hasRound = true ↔ b.holder = .user .round ∨ .round ∈ b.queue := by
  simp [Bus.hasRound]

/-- R32: the stage cycle starts again. -/
theorem cycleExpires_offers {s : State} (h : s.bus.hasRound = false) : cycleExpires s =
    placeUser .round { s with bus := { s.bus with cycleLeft := some (s.bus.period * 1000) } } := by
  simp only [cycleExpires, h]
  rfl

/-- A close reads nothing of the bus. -/
theorem closesWith_of_bus {s t : State} {b : Bus} {v : Vector Port 4} {recs : List ReadingRecord}
    (h : closesWith { s with bus := b } t v recs) : closesWith s t v recs := by
  obtain ⟨x, f, w, h1, h2, h3, h4, h5, h6, h7, h8, hw, hc, hme, hg, hm⟩ := h
  obtain ⟨hc', hme', hg'⟩ := putWatches_congr { s.watches with table := t.watches.table } (s := s)
    (t := { s with bus := b }) rfl rfl rfl rfl
  subst hw
  exact ⟨x, f, _, h1, h2, h3, h4, h5, h6, h7, h8, rfl, hc.trans hc', hme.trans hme', hg.trans (gaugingTakeFlow_congr _ hg'), hm⟩

/-- Settles O20, by who holds the line and what waits. -/
theorem theStageCycleOffersARound : Obligations.TheStageCycleOffersARound := by
  intro s h
  have taken : exec .stageCycleExpiry s = .next (cycleExpires s) := exec_event (f := cycleExpires) rfl h
  have offered : s.bus.holder ≠ .user .round → .round ∉ s.bus.queue → exec .stageCycleExpiry s =
      .next (placeUser .round { s with bus := { s.bus with cycleLeft := some (s.bus.period * 1000) } }) := fun h1 h2 => by
    have hno : s.bus.hasRound = false := Bool.eq_false_iff.mpr fun e => ((hasRound_iff s.bus).mp e).elim h1 h2
    rw [taken, cycleExpires_offers hno]
  refine ⟨fun hr => ?_, fun hheld hu hq => ?_, fun hf hq hm => ?_, fun hf hq hm => ?_⟩
  · rw [taken]
    simp only [cycleExpires, (hasRound_iff s.bus).mpr hr, if_true]
    rfl
  · exact (offered hu hq).trans (congrArg Host.Outcome.next
      (placeUser_held (s := { s with bus := { s.bus with cycleLeft := some (s.bus.period * 1000) } }) hheld))
  · have hplace : placeUser .round { s with bus := { s.bus with cycleLeft := some (s.bus.period * 1000) } } =
        grantFrom [.round] { s with bus := { s.bus with cycleLeft := some (s.bus.period * 1000) } } := if_pos ⟨hf, hq⟩
    rw [offered (by simp [hf]) (by simp [hq]), hplace]
    exact congrArg Host.Outcome.next
      (grantFrom_round [] (s := { s with bus := { s.bus with cycleLeft := some (s.bus.period * 1000) } }) hm)
  · obtain ⟨b, hb⟩ : ∃ b : Bus, b = { s.bus with cycleLeft := some (s.bus.period * 1000) } := ⟨_, rfl⟩
    have e : placeUser .round { s with bus := b } = handRound [] { s with bus := b } := by
      have hplace : placeUser .round { s with bus := b } = grantFrom [.round] { s with bus := b } :=
        if_pos ⟨by rw [hb]; exact hf, by rw [hb]; exact hq⟩
      rw [hplace, grantFrom_nobody [] (s := { s with bus := b }) hm, grantFrom_nil]
      rw [handRound_bus, hb]
      exact hq
    rw [offered (by simp [hf]) (by simp [hq]), ← hb, e]
    refine ⟨_, rfl, handRound_bus .., closesWith_of_bus (handRound_closesWith [] { s with bus := b }), ?_⟩
    have hc := handRound_closeOnly [] { s with bus := b }
    unfold CloseOnly at hc
    rw [handRound_bus]
    exact hc

end Sys2Proof.Machine
end

section
/-! The line's grants, breaks and frames, the ends of polls, and the outcomes of identity and zero exchanges. -/

namespace Sys2Proof.Machine

/-! ## O21: grants and frames -/

/-- A rewrite of the bus after a close does not touch what the close did. -/
theorem closesWith_then_bus {s t : State} {b : Bus} {v : Vector Port 4} {recs : List ReadingRecord}
    (h : closesWith s t v recs) : closesWith s { t with bus := b } v recs := h

theorem endUser_eq (s : State) : endUser s = grantFrom s.bus.queue (freeLine s) := by
  unfold endUser serveLine
  exact if_pos rfl

/-- R31, R33: a line given to a queue with one round at its front, which finds no member. -/
theorem grantFrom_closes {rest : List LineUser} {s : State} (hr : .round ∉ rest) (hm : roundMembers s.ports = []) :
    let t := grantFrom (.round :: rest) s
    closesWith s t s.ports [] ∧ t.ports = s.ports ∧
      (rest = [] → t.bus.holder = s.bus.holder ∧ t.bus.queue = []) ∧
      (∀ u more, rest = u :: more → t.bus.holder = .user u ∧ t.bus.queue = more) := by
  intro t
  have ht : t = grantFrom rest (handRound [] s) := grantFrom_nobody rest hm
  have hclose := handRound_closesWith [] s
  cases rest with
  | nil =>
    rw [ht]
    refine ⟨closesWith_then_bus hclose, handRound_ports .., fun _ => ⟨?_, rfl⟩, fun _ _ e => by simp at e⟩
    simp [grantFrom]
  | cons u more =>
    have hu : u ≠ .round := fun e => hr (by simp [e])
    rw [ht, grantFrom_user hu]
    refine ⟨closesWith_then_bus hclose, handRound_ports .., fun e => by simp at e, fun v l e => ?_⟩
    obtain ⟨rfl, rfl⟩ := List.cons.inj e
    exact ⟨rfl, rfl⟩

theorem membersLeft_cons {v : Vector Port 4} {p : Fin 4} {rest : List (Fin 4)} (h : (v.get p).state.polled = true) :
    membersLeft v (p :: rest) = p :: rest := by simp [membersLeft, h]

theorem closesWith_of_free {s t : State} {v : Vector Port 4} {recs : List ReadingRecord}
    (h : closesWith (freeLine s) t v recs) : closesWith s t v recs := closesWith_of_bus h

/-- Settles O21, each clause from what its event makes of the line. -/
theorem theLineIsGrantedAndCarriesFrames : Obligations.TheLineIsGrantedAndCarriesFrames := by
  intro s h
  have granted : s.bus.holder = .free → exec .lineGrant s = .next (grantFrom s.bus.queue s) := fun hf => by
    rw [exec_event (f := serveLine) rfl h, serveLine, if_pos hf]
  have recovered : s.bus.holder = .recovery → exec .recoveryEnd s = .next (grantFrom s.bus.queue (freeLine s)) := fun hr => by
    rw [exec_event (f := recoveryEnds) rfl h, recoveryEnds, if_pos hr, endUser_eq]
  refine ⟨fun u rest hf hq hu => ?_, fun rest hf hq hm => ?_, fun d hf hd => ?_, fun hb => ?_, fun hr hq => ?_,
    fun u rest hr hq hu => ?_, fun rest hr hq hm => ?_, fun c rest hc hq hone hm => ?_, ?_, fun hp => ?_,
    fun hp hw p verb hu => ?_, fun a hp => ?_, fun a hp => ?_, rfl⟩
  · rw [granted hf, hq, grantFrom_user hu]
  · rw [granted hf, hq, grantFrom_round rest hm]
  · rw [exec_event (f := withBus Bus.applyPending) rfl h]
    simp [withBus, Bus.applyPending, hf, hd]
  · rw [exec_event (f := withBus Bus.breakEnded) rfl h]
    simp [withBus, Bus.breakEnded, hb]
  · refine ⟨_, recovered hr, ?_⟩
    rw [hq]
    exact ⟨rfl, rfl, rfl, rfl⟩
  · refine ⟨_, recovered hr, ?_⟩
    rw [hq, grantFrom_user hu]
    exact ⟨rfl, rfl, rfl⟩
  · refine ⟨_, recovered hr, ?_⟩
    rw [hq, grantFrom_round rest (s := freeLine s) hm]
    exact ⟨rfl, rfl, rfl, rfl, rfl, rfl⟩
  · rcases hc with ⟨rfl, hr⟩ | ⟨rfl, hf⟩
    · refine ⟨_, recovered hr, ?_⟩
      rw [hq]
      obtain ⟨hclose, hports, hnil, hcons⟩ := grantFrom_closes (s := freeLine s) hone hm
      exact ⟨closesWith_of_free hclose, hports, hnil, hcons⟩
    · refine ⟨_, granted hf, ?_⟩
      rw [hq]
      obtain ⟨hclose, hports, hnil, hcons⟩ := grantFrom_closes hone hm
      exact ⟨hclose, hports, fun e => ⟨(hnil e).1.trans hf, (hnil e).2⟩, hcons⟩
  · rw [exec_event (f := withBus fun b => { b with awaitIdle := false }) rfl h]
    rfl
  · rw [exec_event (f := strayComes) rfl h]
    rcases hp with e | e <;> simp [strayComes, Bus.deaf, Bus.inReply, e, addMember]
  · have hbegin : s.bus.mayBegin = true := by simp [Bus.mayBegin, hp, hw]
    have hsend : frameBegins s = sendFrame p verb s := by
      rcases hu with ⟨hu, rfl⟩ | ⟨hu, rfl⟩ | ⟨hu, hhead, hpolled, rfl⟩
      · simp only [frameBegins, hbegin, if_true, hu]
      · simp only [frameBegins, hbegin, if_true, hu]
      · obtain ⟨rest, hrest⟩ := List.head?_eq_some_iff.mp hhead
        simp only [frameBegins, hbegin, if_true, hu, pollNext, hrest, membersLeft_cons hpolled]
        rw [← hrest]
        rfl
    rw [exec_event (f := frameBegins) rfl h, hsend]
    rfl
  · rw [exec_event (f := withBus Bus.frameEnded) rfl h]
    simp only [withBus, Bus.frameEnded, hp]
    rfl
  · rw [exec_event (f := withBus Bus.startBit) rfl h]
    simp only [withBus, Bus.startBit, hp]

/-! ## O24: how polls end -/

/-- R31: a grant rewrites the line's claims and turns alone. -/
theorem grantFrom_bus (l : List LineUser) (s : State) : (grantFrom l s).bus = { s.bus with
    holder := (grantFrom l s).bus.holder, phase := (grantFrom l s).bus.phase, queue := (grantFrom l s).bus.queue
    roundTodo := (grantFrom l s).bus.roundTodo, roundPolls := (grantFrom l s).bus.roundPolls } := by
  induction l generalizing s with
  | nil => rfl
  | cons u l ih =>
    cases u with
    | ident p => rfl
    | zero p => rfl
    | round =>
      by_cases hm : roundMembers s.ports = []
      · rw [grantFrom_nobody l hm]
        refine (ih (handRound [] s)).trans ?_
        rw [handRound_bus]
      · rw [grantFrom_round l hm]

theorem closeRound_eq (s : State) : closeRound s =
    grantFrom s.bus.queue (handRound (recordsAt s.ports s.bus.roundPolls) (freeLine s)) := by
  have h : (handRound (recordsAt s.ports s.bus.roundPolls) (freeLine s)).bus = s.bus.freed := handRound_bus ..
  unfold closeRound serveLine
  rw [h]
  exact if_pos rfl

/-- R28, R33: what the turn of a round leaves of the bus. -/
theorem advanceRound_bus (l : List (Fin 4)) (s : State) : (advanceRound l s).bus.status = s.bus.status ∧
    (advanceRound l s).bus.awaitIdle = s.bus.awaitIdle ∧ (advanceRound l s).bus.rx = s.bus.rx.released := by
  simp only [advanceRound]
  split
  · rw [closeRound_eq, grantFrom_bus, handRound_bus]
    exact ⟨rfl, rfl, rfl⟩
  · exact ⟨rfl, rfl, rfl⟩

/-- The state when a poll's result has been taken, before the round goes on. -/
def polledState (p : Fin 4) (e : ReplyEnd) (s : State) : State :=
  storePort p ((s.ports.get p).polledWith e) (putStatus p (ReplyStatus.afterPoll s.host.time e)
    (withBus (fun b => { b with roundPolls := b.roundPolls ++ [⟨p, e.reading⟩] }) s))

theorem pollEnds_eq {p : Fin 4} {rest : List (Fin 4)} {s : State} (h : s.bus.roundTodo = p :: rest) (e : ReplyEnd) :
    pollEnds e s = advanceRound rest (polledState p e s) := by
  simp only [pollEnds, h]
  rfl

/-- R17, R30: what a poll's result leaves of the reply status and of the ports. -/
structure PollTaken (p : Fin 4) (e : ReplyEnd) (s t : State) : Prop where
  status : t.bus.status = putAt s.bus.status p (ReplyStatus.afterPoll s.host.time e (s.bus.status.get p))
  misses : (t.ports.get p).missCount = ((s.ports.get p).polledWith e).missCount
  silent : (t.ports.get p).silent = decide ((s.ports.get p).missLimit ≤ (t.ports.get p).missCount)
  others : ∀ q, q ≠ p → t.ports.get q = s.ports.get q
  awaitIdle : t.bus.awaitIdle = s.bus.awaitIdle
  marked : Marked s t

theorem polledWith_kept (e : ReplyEnd) (r : Port) : (r.polledWith e).state = r.state ∧ (r.polledWith e).missLimit = r.missLimit := by
  simp only [Port.polledWith]
  split
  · cases e <;> exact ⟨rfl, rfl⟩
  · exact ⟨rfl, rfl⟩

theorem pollEnds_taken {p : Fin 4} {rest : List (Fin 4)} {s : State} (h : s.bus.roundTodo = p :: rest)
    (hp : (s.ports.get p).state.polled = true) (e : ReplyEnd) : PollTaken p e s (pollEnds e s) := by
  obtain ⟨hstatus, hidle, _⟩ := advanceRound_bus rest (polledState p e s)
  have hports : (pollEnds e s).ports = putAt s.ports p ((s.ports.get p).settled ((s.ports.get p).polledWith e)) := by
    rw [pollEnds_eq h, advanceRound_ports]
    simp [polledState]
  obtain ⟨hst, hlim⟩ := polledWith_kept e (s.ports.get p)
  rw [pollEnds_eq h] at hports ⊢
  constructor
  case status => rw [hstatus]; simp [polledState]
  case misses => rw [hports, putAt_get_self, settled_eq]
  case silent =>
    rw [hports, putAt_get_self, settled_silent, Port.silentNow, hst, hp, hlim, settled_eq]
    rfl
  case others => intro q hq; rw [hports, putAt_get_ne _ _ hq]
  case awaitIdle => rw [hidle]; simp [polledState, putStatus]
  case marked =>
    exact (((withBus_marked ..).trans (putStatus_marked ..)).trans (storePort_marked ..)).trans (advanceRound_marked ..)

/-- R22, R28, R32: whether a member is set by the ports and the line's own events. -/
def Member.line : Member → Bool
  | .port _ | .busError | .roundOverrun => true
  | .sourceChange | .qualityChange | .ratingSwap | .watch _ | .gauging _ | .cableway => false

/-- Two states agree in all that a close reads and in the members that it may set. -/
structure SameForClose (s u : State) : Prop where
  time : u.host.time = s.host.time
  selector : u.selector = s.selector
  ratings : u.ratings = s.ratings
  watches : u.watches = s.watches
  carriage : u.carriage = s.carriage
  meter : u.meter = s.meter
  gaugings : u.gaugings = s.gaugings
  members : ∀ m : Member, m.line = false → hasMember u.host.attention m = hasMember s.host.attention m

/-- What a close reads and sets does not lie in the ports and the line. -/
theorem closesWith_congr {s u t : State} {v : Vector Port 4} {recs : List ReadingRecord} (k : SameForClose s u)
    (h : closesWith u t v recs) : closesWith s t v recs := by
  obtain ⟨x, f, w, h1, h2, h3, h4, h5, h6, h7, h8, hw, hc, hme, hg, m1, m2, m3, m4⟩ := h
  obtain ⟨hc', hme', hg'⟩ := putWatches_congr { s.watches with table := t.watches.table } (s := s) (t := u)
    (by rw [k.watches]) k.carriage k.meter k.gaugings
  subst hw
  rw [k.watches] at h7 h8 hc hme hg m4
  rw [k.time] at h1 h3 h4
  rw [k.selector] at h1 m2
  rw [k.ratings] at h4 m3
  rw [k.members _ rfl] at m1 m2 m3
  exact ⟨x, f, _, h1, h2, h3, h4, h5, h6, h7, h8, rfl, hc.trans hc', hme.trans hme',
    hg.trans (gaugingTakeFlow_congr _ hg'), m1, m2, m3, fun i => by rw [m4 i, k.members _ rfl]⟩

theorem SameForClose.trans {s t u : State} (h1 : SameForClose s t) (h2 : SameForClose t u) : SameForClose s u where
  time := h2.time.trans h1.time
  selector := h2.selector.trans h1.selector
  ratings := h2.ratings.trans h1.ratings
  watches := h2.watches.trans h1.watches
  carriage := h2.carriage.trans h1.carriage
  meter := h2.meter.trans h1.meter
  gaugings := h2.gaugings.trans h1.gaugings
  members m hm := (h2.members m hm).trans (h1.members m hm)

theorem withBus_sameForClose (f : Bus → Bus) (s : State) : SameForClose s (withBus f s) :=
  ⟨rfl, rfl, rfl, rfl, rfl, rfl, rfl, fun _ _ => rfl⟩

theorem addMemberIf_sameForClose (c : Bool) {m : Member} (hm : m.line = true) (s : State) :
    SameForClose s (addMemberIf c m s) := by
  refine ⟨by simp, by simp, by simp, by simp, by simp, by simp, by simp, fun n hn => ?_⟩
  have hne : n ≠ m := fun e => by rw [e, hm] at hn; exact absurd hn (by simp)
  rw [hasMember_addMemberIf, decide_eq_false hne, Bool.and_false, Bool.or_false]

theorem storePort_sameForClose (p : Fin 4) (r : Port) (s : State) : SameForClose s (storePort p r s) := by
  have h : SameForClose s { s with ports := putAt s.ports p ((s.ports.get p).settled r) } :=
    ⟨rfl, rfl, rfl, rfl, rfl, rfl, rfl, fun _ _ => rfl⟩
  exact h.trans (addMemberIf_sameForClose _ (m := .port p) rfl _)

theorem polledState_sameForClose (p : Fin 4) (e : ReplyEnd) (s : State) : SameForClose s (polledState p e s) :=
  ((withBus_sameForClose ..).trans (withBus_sameForClose ..)).trans (storePort_sameForClose ..)

theorem readingsOf_eq (v : Vector Port 4) (polls : List Poll) : readingsOf v polls = recordsAt v polls := by
  refine congrArg (fun f => polls.filterMap f) (funext fun x => ?_)
  simp only [recordAt]
  split
  · cases x.reading with
    | none => rfl
    | some y =>
      obtain ⟨i, h⟩ := y
      cases h <;> rfl
  · rfl

/-- R33, R34: a round that closes with no round waiting. -/
theorem closeRound_spec {s : State} (hr : .round ∉ s.bus.queue) :
    closesWith s (closeRound s) s.ports (recordsAt s.ports s.bus.roundPolls) ∧ (closeRound s).ports = s.ports ∧
      (s.bus.queue = [] → (closeRound s).bus.holder = .free ∧ (closeRound s).bus.phase = .idle ∧
        (closeRound s).bus.roundPolls = []) ∧
      (∀ u more, s.bus.queue = u :: more → (closeRound s).bus.holder = .user u ∧
        (closeRound s).bus.phase = .awaitFrame ∧ (closeRound s).bus.queue = more) := by
  have hclose : closesWith s (handRound (recordsAt s.ports s.bus.roundPolls) (freeLine s)) s.ports
      (recordsAt s.ports s.bus.roundPolls) :=
    closesWith_of_free (handRound_closesWith (recordsAt s.ports s.bus.roundPolls) (freeLine s))
  have hbus : (handRound (recordsAt s.ports s.bus.roundPolls) (freeLine s)).bus = s.bus.freed := handRound_bus ..
  refine ⟨?_, closeRound_ports s, ?_, ?_⟩
  all_goals rw [closeRound_eq]
  all_goals generalize handRound (recordsAt s.ports s.bus.roundPolls) (freeLine s) = t at hclose hbus ⊢
  · cases hq : s.bus.queue with
    | nil => exact closesWith_then_bus hclose
    | cons u more =>
      have hu : u ≠ .round := fun e => hr (by simp [hq, e])
      rw [grantFrom_user hu]
      exact closesWith_then_bus hclose
  · intro hq
    rw [hq]
    simp only [grantFrom, withBus, hbus]
    exact ⟨rfl, rfl, rfl⟩
  · intro u more hq
    have hu : u ≠ .round := fun e => hr (by simp [hq, e])
    rw [hq, grantFrom_user hu]
    exact ⟨rfl, rfl, rfl⟩

/-- R33: the members left behind those that have gone. -/
theorem membersLeft_skip {v : Vector Port 4} {skipped more : List (Fin 4)} {m : Fin 4}
    (h : ∀ q ∈ skipped, (v.get q).state.polled = false) (hm : (v.get m).state.polled = true) :
    membersLeft v (skipped ++ m :: more) = m :: more := by
  rw [membersLeft, List.dropWhile_append_of_pos fun q hq => by simp [h q hq]]
  exact membersLeft_cons hm

theorem membersLeft_none {v : Vector Port 4} {l : List (Fin 4)} (h : ∀ q ∈ l, (v.get q).state.polled = false) :
    membersLeft v l = [] := List.dropWhile_eq_nil_iff.mpr fun q hq => by simp [h q hq]

/-- R33: a round goes on, or closes, when one of its polls has ended. -/
theorem pollEnds_goesOn {p : Fin 4} {rest : List (Fin 4)} {s u : State} (hu : u.bus.roundTodo = p :: rest)
    (hholder : u.bus.holder = .user .round) (hr : .round ∉ s.bus.queue) (hsame : SameForClose s u)
    (hbus : BusAndPorts s u) (hports : u.ports = s.ports) (hqueue : u.bus.queue = s.bus.queue)
    (hpolls : u.bus.roundPolls = s.bus.roundPolls) (hrx : u.bus.rx = s.bus.rx) (e : ReplyEnd) :
    roundGoesOn s (pollEnds e u) rest ⟨p, e.reading⟩ := by
  have hv : (polledState p e u).ports = putAt s.ports p ((s.ports.get p).settled ((s.ports.get p).polledWith e)) := by
    simp [polledState, hports]
  have hpolled : ∀ q, ((polledState p e u).ports.get q).state.polled = (s.ports.get q).state.polled := by
    intro q
    rw [hv]
    by_cases hq : q = p
    · subst hq; simp [(polledWith_kept e (s.ports.get q)).1]
    · rw [putAt_get_ne _ _ hq]
  have hvpolls : (polledState p e u).bus.roundPolls = s.bus.roundPolls ++ [⟨p, e.reading⟩] := by
    simp [polledState, putStatus, hpolls]
  have hvqueue : (polledState p e u).bus.queue = s.bus.queue := by simp [polledState, putStatus, hqueue]
  have hvholder : (polledState p e u).bus.holder = .user .round := by simp [polledState, putStatus, hholder]
  rw [pollEnds_eq hu]
  refine ⟨fun skipped m more hrest hskip hm => ?_, fun hgone => ?_, fun hmode => ?_⟩
  · have hleft : membersLeft (polledState p e u).ports rest = m :: more := by
      rw [hrest]
      exact membersLeft_skip (fun q hq => (hpolled q).trans (hskip q hq)) ((hpolled m).trans hm)
    have hadv : advanceRound rest (polledState p e u) = withBus (fun b => { b with
        roundTodo := m :: more, phase := .awaitFrame, rx := b.rx.released }) (polledState p e u) := by
      simp only [advanceRound, hleft]
    rw [hadv]
    refine ⟨?_, hvholder, rfl, rfl, hvpolls, hvqueue⟩
    have hstored : BusAndPorts u (polledState p e u) := by
      obtain ⟨att, hatt⟩ := storePort_effect p ((u.ports.get p).polledWith e) (putStatus p (ReplyStatus.afterPoll u.host.time e)
        (withBus (fun b => { b with roundPolls := b.roundPolls ++ [⟨p, e.reading⟩] }) u))
      exact .of_eq hatt
    exact (hbus.trans hstored).trans (.of_eq rfl)
  · have hleft : membersLeft (polledState p e u).ports rest = [] :=
      membersLeft_none fun q hq => (hpolled q).trans (hgone q hq)
    have hadv : advanceRound rest (polledState p e u) = closeRound (polledState p e u) := by
      simp only [advanceRound, hleft]
    obtain ⟨hclose, hcports, hnil, hcons⟩ := closeRound_spec (s := polledState p e u) (by rw [hvqueue]; exact hr)
    rw [hvqueue] at hnil hcons
    rw [hvpolls] at hclose
    rw [hadv, readingsOf_eq, hcports]
    exact ⟨closesWith_congr (hsame.trans (polledState_sameForClose p e u)) hclose, hnil, hcons⟩
  · rw [(advanceRound_bus ..).2.2]
    simp [polledState, putStatus, hrx, Receiver.released, hmode]

/-- Settles O24, from what each end of an exchange hands to the round. -/
theorem pollResultsAreCounted : Obligations.PollResultsAreCounted := by
  intro p rest a s h hholder htodo hp
  have window : s.bus.phase = .window a → exec .replyWindowClose s = .next (pollEnds .noReply s) := fun hph => by
    rw [exec_event (f := windowCloses) rfl h]
    simp only [windowCloses, hph, exchangeEnds, hholder]
  have good : s.bus.phase = .reply a → ∀ chars, replyOf .poll a s.bus.rx = .good chars →
      exec .replyIdleEnd s = .next (pollEnds (.good chars) s) := fun hph chars hg => by
    rw [exec_event (f := replyIdles) rfl h]
    simp only [replyIdles, hph, hholder, Holder.work, hg, exchangeEnds]
  have garbled : s.bus.phase = .reply a → ∀ c, replyOf .poll a s.bus.rx = .garbled c →
      exec .replyIdleEnd s = .next (pollEnds (.garbled c) (addMember .busError s)) := fun hph c hg => by
    rw [exec_event (f := replyIdles) rfl h]
    simp only [replyIdles, hph, hholder, Holder.work, hg, exchangeEnds]
  have limit : s.bus.phase = .reply a → exec .replyLimit s = .next (pollEnds (.garbled .overlong)
      (addMember .busError (withBus (fun b => { b with awaitIdle := true }) s))) := fun hph => by
    rw [exec_event (f := replyOverruns) rfl h]
    simp only [replyOverruns, hph, exchangeEnds, withBus_bus, hholder]
  have counted : ((s.ports.get p).polledWith .noReply).missCount =
      if (s.ports.get p).missCount < 255 then (s.ports.get p).missCount + 1 else (s.ports.get p).missCount := by
    simp [Port.polledWith, hp, saturatingSucc]
  have countedGarbled : ∀ c, ((s.ports.get p).polledWith (.garbled c)).missCount =
      if (s.ports.get p).missCount < 255 then (s.ports.get p).missCount + 1 else (s.ports.get p).missCount := fun c => by
    simp [Port.polledWith, hp, saturatingSucc]
  refine ⟨fun hph => ?_, fun hph chars hg => ?_, fun hph c hg => ?_, fun hph => ?_, fun c x hr hc => ?_⟩
  · have k := pollEnds_taken htodo hp .noReply
    exact ⟨_, window hph, k.status, k.misses.trans counted, k.silent, k.others⟩
  · have k := pollEnds_taken htodo hp (.good chars)
    have hzero : ((pollEnds (.good chars) s).ports.get p).missCount = 0 := k.misses.trans (by simp [Port.polledWith, hp])
    exact ⟨_, good hph chars hg, k.status, hzero, by rw [k.silent, hzero]; simp, k.others⟩
  · have k := pollEnds_taken (s := addMember .busError s) htodo hp (.garbled c)
    exact ⟨_, garbled hph c hg, k.status, k.misses.trans (countedGarbled c), k.silent,
      k.marked.keeps (hasMember_withMember_self ..), k.others⟩
  · have k := pollEnds_taken (s := addMember .busError (withBus (fun b => { b with awaitIdle := true }) s)) htodo hp
      (.garbled .overlong)
    exact ⟨_, limit hph, k.status, k.misses.trans (countedGarbled .overlong), k.silent, k.awaitIdle,
      k.marked.keeps (hasMember_withMember_self ..), k.others⟩
  · have busError : ∀ t, SameForClose t (addMember .busError t) := fun t => addMemberIf_sameForClose true (m := .busError) rfl t
    rcases hc with ⟨rfl, hph, rfl⟩ | ⟨rfl, hph, ⟨chars, hg, rfl⟩ | ⟨k, hg, rfl⟩⟩ | ⟨rfl, hph, rfl⟩
    · exact ⟨_, window hph, pollEnds_goesOn htodo hholder hr (withBus_sameForClose id s) (.of_eq rfl) rfl rfl rfl rfl .noReply⟩
    · exact ⟨_, good hph chars hg,
        pollEnds_goesOn htodo hholder hr (withBus_sameForClose id s) (.of_eq rfl) rfl rfl rfl rfl (.good chars)⟩
    · exact ⟨_, garbled hph k hg, pollEnds_goesOn (u := addMember .busError s) htodo hholder hr (busError s) (.of_eq rfl)
        rfl rfl rfl rfl (.garbled k)⟩
    · exact ⟨_, limit hph, pollEnds_goesOn (u := addMember .busError (withBus (fun b => { b with awaitIdle := true }) s)) htodo
        hholder hr ((withBus_sameForClose ..).trans (busError _)) (.of_eq rfl) rfl rfl rfl rfl (.garbled .overlong)⟩

/-! ## O25: identity attempts and zero exchanges -/

theorem serveLine_kept (s : State) : (serveLine s).bus.status = s.bus.status ∧ (serveLine s).bus.awaitIdle = s.bus.awaitIdle := by
  simp only [serveLine]
  split
  · rw [grantFrom_bus]
    exact ⟨rfl, rfl⟩
  · exact ⟨rfl, rfl⟩

theorem placeUser_kept {u : LineUser} (hu : u ≠ .round) (s : State) :
    (placeUser u s).bus.status = s.bus.status ∧ (placeUser u s).bus.awaitIdle = s.bus.awaitIdle := by
  rw [placeUser_eq hu]
  split <;> exact ⟨rfl, rfl⟩

/-- The state in which the port takes the outcome of an attempt. -/
def attemptedState (p : Fin 4) (e : ReplyEnd) (s : State) : State :=
  storePort p ((s.ports.get p).attempted e) (putStatus p (ReplyStatus.afterEnd e) (freeLine s))

theorem identEnds_eq {p : Fin 4} {s : State} (h : (s.ports.get p).state = .identifying) (e : ReplyEnd) :
    identEnds p e s = serveLine (if ((s.ports.get p).attempted e).state = .identifying
      then placeUser (.ident p) (attemptedState p e s) else attemptedState p e s) := by
  have hp : (putStatus p (ReplyStatus.afterEnd e) (freeLine s)).ports = s.ports := rfl
  simp only [identEnds, takeAttempt, hp, h, if_true]
  rfl

/-- R10, R30, R35: what the end of an identity attempt leaves of the ports, the reply status and the line. -/
structure AttemptTaken (p : Fin 4) (e : ReplyEnd) (s t : State) : Prop where
  port : t.ports.get p = (s.ports.get p).settled ((s.ports.get p).attempted e)
  others : ∀ q, q ≠ p → t.ports.get q = s.ports.get q
  status : t.bus.status.get p = (s.bus.status.get p).afterEnd e
  awaitIdle : t.bus.awaitIdle = s.bus.awaitIdle
  marked : Marked s t
  member : (s.ports.get p).state ≠ ((s.ports.get p).attempted e).state → hasMember t.host.attention (.port p) = true

theorem attemptedState_taken (p : Fin 4) (e : ReplyEnd) (s : State) : AttemptTaken p e s (attemptedState p e s) where
  port := by simp [attemptedState, freeLine]
  others q hq := by simp [attemptedState, freeLine, putAt_get_ne _ _ hq]
  status := by simp [attemptedState, freeLine]
  awaitIdle := by
    simp [attemptedState, freeLine, putStatus]
    rfl
  marked := ((freeLine_marked s).trans (putStatus_marked ..)).trans (storePort_marked ..)
  member h := storePort_member h

theorem identEnds_taken {p : Fin 4} {s : State} (h : (s.ports.get p).state = .identifying) (e : ReplyEnd) :
    AttemptTaken p e s (identEnds p e s) := by
  rw [identEnds_eq h]
  have k := attemptedState_taken p e s
  obtain ⟨k1, k2, k3, k4, k5, k6⟩ := k
  split
  · obtain ⟨hs, hi⟩ := serveLine_kept (placeUser (.ident p) (attemptedState p e s))
    obtain ⟨hs', hi'⟩ := placeUser_kept (u := .ident p) (by simp) (attemptedState p e s)
    have hm := (placeUser_marked (.ident p) (attemptedState p e s)).trans (serveLine_marked _)
    exact ⟨by rw [serveLine_ports, placeUser_ports, k1], fun q hq => by rw [serveLine_ports, placeUser_ports, k2 q hq],
      by rw [hs, hs', k3], by rw [hi, hi', k4], k5.trans hm, fun hne => hm.keeps (k6 hne)⟩
  · obtain ⟨hs, hi⟩ := serveLine_kept (attemptedState p e s)
    have hm := serveLine_marked (attemptedState p e s)
    exact ⟨by rw [serveLine_ports, k1], fun q hq => by rw [serveLine_ports, k2 q hq],
      by rw [hs, k3], by rw [hi, k4], k5.trans hm, fun hne => hm.keeps (k6 hne)⟩

/-- R10: a second request on a line with no other user takes it at once. -/
theorem identEnds_again {p : Fin 4} {s : State} (h : (s.ports.get p).state = .identifying) {e : ReplyEnd}
    (he : ((s.ports.get p).attempted e).state = .identifying) (hq : s.bus.queue = []) :
    (identEnds p e s).bus.holder = .user (.ident p) := by
  have hfree : (attemptedState p e s).bus.holder = .free := by simp [attemptedState, freeLine, putStatus]
  have hqueue : (attemptedState p e s).bus.queue = [] := by simp [attemptedState, freeLine, putStatus, hq]
  rw [identEnds_eq h, if_pos he, placeUser_free hfree hqueue (by simp), serveLine_held (by simp [Bus.taken])]
  rfl

theorem attempted_miss {e : ReplyEnd} (he : ∀ chars, e ≠ .good chars) (r : Port) : r.attempted e = r.unanswered := by
  cases e with
  | good chars => exact absurd rfl (he chars)
  | noReply => rfl
  | garbled c => rfl

/-- What a miss writes to the reply status. -/
def missOf (fault : Option GarbleCause) : ReplyEnd :=
  match fault with
  | some c => .garbled c
  | none => .noReply

theorem missOf_ne (fault : Option GarbleCause) (chars : List Byte) : missOf fault ≠ .good chars := by
  cases fault <;> simp [missOf]

theorem afterEnd_missOf (fault : Option GarbleCause) (x : ReplyStatus) :
    (x.afterEnd (missOf fault)).garble = if fault.isSome then fault else x.garble := by
  cases fault <;> rfl

/-- R28, R29: the state in which an exchange ends in a miss. -/
def missState (c : Instr) (fault : Option GarbleCause) (s : State) : State :=
  addMemberIf fault.isSome .busError (if c = .replyLimit then withBus (fun b => { b with awaitIdle := true }) s else s)

theorem missState_spec (c : Instr) (fault : Option GarbleCause) (s : State) :
    (missState c fault s).ports = s.ports ∧ (missState c fault s).bus.status = s.bus.status ∧
      (missState c fault s).bus.queue = s.bus.queue ∧ (c = .replyLimit → (missState c fault s).bus.awaitIdle = true) ∧
      (fault.isSome = true → hasMember (missState c fault s).host.attention .busError = true) := by
  have hm : fault.isSome = true → hasMember (missState c fault s).host.attention .busError = true := fun hf => by
    simp [missState, hf]
  refine ⟨?_, ?_, ?_, fun hc => ?_, hm⟩
  all_goals simp only [missState, addMemberIf_ports, addMemberIf_bus]
  · split <;> rfl
  · split <;> rfl
  · split <;> rfl
  · simp [hc]

/-- R28, R29: the three ways in which an exchange of a port's user ends in a miss. -/
def EndsInMiss (w : Work) (a : Nat) (s : State) (c : Instr) (fault : Option GarbleCause) : Prop :=
  (c = .replyWindowClose ∧ s.bus.phase = .window a ∧ fault = none) ∨
    (c = .replyIdleEnd ∧ s.bus.phase = .reply a ∧ ∃ k, fault = some k ∧ replyOf w a s.bus.rx = .garbled k) ∨
    (c = .replyLimit ∧ s.bus.phase = .reply a ∧ fault = some .overlong)

/-- R28, R29: what a miss of a port's user comes to, `f` being the end of the user's exchange. -/
theorem exec_miss {u : LineUser} {w : Work} {a : Nat} {s : State} {c : Instr} {fault : Option GarbleCause}
    {f : ReplyEnd → State → State} (h : s.inReset = false) (hh : s.bus.holder = .user u) (hw : s.bus.holder.work = w)
    (hf : ∀ e t, t.bus.holder = .user u → exchangeEnds e t = f e (match e with
      | .garbled _ => addMember .busError t
      | .good _ | .noReply => t)) (hc : EndsInMiss w a s c fault) :
    exec c s = .next (f (missOf fault) (missState c fault s)) := by
  rcases hc with ⟨rfl, hp, rfl⟩ | ⟨rfl, hp, k, rfl, hk⟩ | ⟨rfl, hp, rfl⟩
  · rw [exec_event (f := windowCloses) rfl h]
    simp only [windowCloses, hp, hf _ s hh]
    rfl
  · rw [exec_event (f := replyIdles) rfl h]
    simp only [replyIdles, hp, hw, hk, hf _ s hh]
    rfl
  · rw [exec_event (f := replyOverruns) rfl h]
    simp only [replyOverruns, hp]
    rw [hf _ (withBus (fun b => { b with awaitIdle := true }) s) hh]
    rfl

theorem exec_good {w : Work} {a : Nat} {s : State} {chars : List Byte} (h : s.inReset = false)
    (hw : s.bus.holder.work = w) (hp : s.bus.phase = .reply a) (hg : replyOf w a s.bus.rx = .good chars) :
    exec .replyIdleEnd s = .next (exchangeEnds (.good chars) s) := by
  rw [exec_event (f := replyIdles) rfl h]
  simp only [replyIdles, hp, hw, hg]

/-- R36: what the end of a zero exchange leaves. -/
theorem zeroExchangeEnds_spec (p : Fin 4) (e : ReplyEnd) (s : State) :
    let t := zeroExchangeEnds p e s
    (t.bus.status.get p).zero = zeroOutcomeOf e ∧ (t.bus.status.get p).garble = ((s.bus.status.get p).afterEnd e).garble ∧
      t.bus.awaitIdle = s.bus.awaitIdle ∧ Marked s t ∧ hasMember t.host.attention (.port p) = true ∧ t.ports = s.ports := by
  intro t
  obtain ⟨hs, hi⟩ := serveLine_kept (freeLine (zeroEnds p (zeroOutcomeOf e) (putStatus p (ReplyStatus.afterEnd e) s)))
  have hstatus : t.bus.status = (zeroEnds p (zeroOutcomeOf e) (putStatus p (ReplyStatus.afterEnd e) s)).bus.status := hs
  have hm := endUser_marked (zeroEnds p (zeroOutcomeOf e) (putStatus p (ReplyStatus.afterEnd e) s))
  refine ⟨?_, ?_, hi, ((putStatus_marked ..).trans (zeroEnds_marked ..)).trans hm, hm.keeps (by simp [zeroEnds]), ?_⟩
  · rw [hstatus]; simp [zeroEnds]
  · rw [hstatus]; simp [zeroEnds]
  · show (serveLine _).ports = _
    rw [serveLine_ports]
    simp [freeLine]

/-- Settles O25, from the ends of an attempt and of a zero exchange. -/
theorem identityAndZeroOutcomes : Obligations.IdentityAndZeroOutcomes := by
  intro p a s h
  refine ⟨fun hh hst => ⟨fun hp chars hg => ?_, fun c fault hc => ?_⟩, fun hh => ⟨fun c fault o hc => ?_, fun hp chars hg => ?_⟩⟩
  · have hwork : s.bus.holder.work = .ident := by rw [hh]; rfl
    have k := identEnds_taken hst (.good chars)
    refine ⟨identEnds p (.good chars) s, ?_, ?_, fun hk => ?_, fun hk => ?_, k.others⟩
    · rw [exec_good h hwork hp hg]
      simp only [exchangeEnds, hh]
    all_goals rw [k.port, settled_eq]
    · simp only [Port.attempted, Port.identified]
      split <;> rfl
    · simp only [Port.attempted, Port.identified, if_pos hk]
      exact ⟨trivial, trivial⟩
    · simp only [Port.attempted, Port.identified, if_neg hk]
      exact ⟨rfl, rfl⟩
  · have hwork : s.bus.holder.work = .ident := by rw [hh]; rfl
    obtain ⟨hports, hstatus, hqueue, hidle, hbus⟩ := missState_spec c fault s
    have hst' : ((missState c fault s).ports.get p).state = .identifying := by rw [hports]; exact hst
    have k := identEnds_taken hst' (missOf fault)
    have hattempt : ((missState c fault s).ports.get p).attempted (missOf fault) = (s.ports.get p).unanswered := by
      rw [attempted_miss (missOf_ne fault), hports]
    have hport : (identEnds p (missOf fault) (missState c fault s)).ports.get p =
        (s.ports.get p).settled (s.ports.get p).unanswered := by rw [k.port, hattempt, hports]
    have hcount : (s.ports.get p).unanswered.attempts = (s.ports.get p).attempts + 1 ∧
        (s.ports.get p).unanswered.identity = (s.ports.get p).identity := by
      simp only [Port.unanswered]
      split <;> exact ⟨rfl, rfl⟩
    refine ⟨_, exec_miss h hh hwork (f := identEnds p)
      (fun e t ht => by cases e <;> simp only [exchangeEnds, ht]) hc, ?_, ?_, fun h0 => ⟨?_, fun hq => ?_⟩, fun h1 => ?_,
      ?_, fun hf => k.marked.keeps (hbus hf), fun hl => k.awaitIdle.trans (hidle hl), fun q hq => ?_⟩
    · rw [hport, settled_eq]; exact hcount.1
    · rw [hport, settled_eq]; exact hcount.2
    · rw [hport, settled_state]
      simp [Port.unanswered, h0, hst]
    · refine identEnds_again hst' ?_ (hqueue.trans hq)
      rw [hattempt]
      simp [Port.unanswered, h0, hst]
    · have hfault : (s.ports.get p).unanswered.state = .faulted ∧ (s.ports.get p).unanswered.faultCause = some .noIdentity := by
        simp [Port.unanswered, h1, Port.faulted]
      refine ⟨?_, ?_, k.member ?_⟩
      · rw [hport, settled_state]; exact hfault.1
      · rw [hport, settled_eq]; exact hfault.2
      · rw [hst', hattempt, hfault.1]; simp
    · rw [k.status, afterEnd_missOf, hstatus]
    · rw [k.others q hq, hports]
  · have hwork : s.bus.holder.work = .zero := by rw [hh]; rfl
    obtain ⟨hports, hstatus, _, hidle, hbus⟩ := missState_spec c fault s
    obtain ⟨hz, hgar, hwait, hm, hmem, hp⟩ := zeroExchangeEnds_spec p (missOf fault) (missState c fault s)
    have hmiss : EndsInMiss .zero a s c fault ∧ o = zeroOutcomeOf (missOf fault) := by
      rcases hc with ⟨hc, hp, hf, ho⟩ | ⟨hc, hp, ho, k, hf, hk⟩ | ⟨hc, hp, hf, ho⟩
      · exact ⟨.inl ⟨hc, hp, hf⟩, by rw [ho, hf]; rfl⟩
      · exact ⟨.inr (.inl ⟨hc, hp, k, hf, hk⟩), by rw [ho, hf]; rfl⟩
      · exact ⟨.inr (.inr ⟨hc, hp, hf⟩), by rw [ho, hf]; rfl⟩
    refine ⟨_, exec_miss h hh hwork (f := zeroExchangeEnds p)
      (fun e t ht => by cases e <;> simp only [exchangeEnds, ht]) hmiss.1, hz.trans hmiss.2.symm, ?_,
      fun hf => hm.keeps (hbus hf), fun hl => hwait.trans (hidle hl), hmem, hp.trans hports⟩
    rw [hgar, afterEnd_missOf, hstatus]
  · have hwork : s.bus.holder.work = .zero := by rw [hh]; rfl
    obtain ⟨hz, _, _, _, hmem, hports⟩ := zeroExchangeEnds_spec p (.good chars) s
    refine ⟨zeroExchangeEnds p (.good chars) s, ?_, hz, hmem, hports⟩
    rw [exec_good h hwork hp hg]
    simp only [exchangeEnds, hh]

end Sys2Proof.Machine
end

section
/-! Characters on the line (R24 to R29, R123): the samples of a sent character, the receivers, and a reply's checks. -/

namespace Sys2Proof.Machine

/-! ## The samples of sent bits -/

/-- R24: each bit of a list held for its sixteen samples. -/
def spread (l : List Bool) : List Bool := l.flatMap (List.replicate 16)

theorem spread_getD (l rest : List Bool) (k j : Nat) (hk : k < l.length) (hj : j < 16) :
    (spread l ++ rest).getD (16 * k + j) true = l[k] := by
  induction l generalizing k with
  | nil => exact absurd hk (Nat.not_lt_zero _)
  | cons a l ih =>
    have e : spread (a :: l) ++ rest = List.replicate 16 a ++ (spread l ++ rest) := by simp [spread]
    rw [e]
    cases k with
    | zero =>
      rw [List.getD_eq_getElem?_getD, List.getElem?_append_left (by rw [List.length_replicate]; omega),
        List.getElem?_replicate, if_pos (by omega)]
      rfl
    | succ k =>
      rw [List.getD_eq_getElem?_getD, List.getElem?_append_right (by simp; omega), ← List.getD_eq_getElem?_getD,
        List.length_replicate, show 16 * (k + 1) + j - 16 = 16 * k + j by omega, ih k (by simpa using hk)]
      rfl

/-- R25: a bit read from its own samples. -/
theorem bitAt_spread (l rest : List Bool) (k : Nat) (hk : k < l.length) : bitAt (spread l ++ rest) k = l[k] := by
  simp only [bitAt, spread_getD l rest k 7 hk (by decide), spread_getD l rest k 8 hk (by decide),
    spread_getD l rest k 9 hk (by decide), Bool.and_self, Bool.or_self]

theorem dataAt_getLsbD (samples : List Bool) (i : Nat) (hi : i < 8) : (dataAt samples).getLsbD i = bitAt samples (i + 1) := by
  have h : (dataAt samples).getLsbD i = ((List.range 8).map fun i => bitAt samples (i + 1)).getD i false :=
    BitVec.getLsbD_ofBoolListLE
  rw [h]
  simp [List.getD_eq_getElem?_getD, hi]

theorem dataAt_eq {samples : List Bool} {d : Byte} (h : ∀ i, i < 8 → bitAt samples (i + 1) = d.getLsbD i) :
    dataAt samples = d :=
  BitVec.eq_of_getLsbD_eq fun i hi => by rw [dataAt_getLsbD samples i hi, h i hi]

/-- R24, R123: the bits of a byte between a low start bit and what follows. -/
theorem bitAt_framed (d : Byte) (more rest : List Bool) :
    bitAt (spread (false :: (bitsLow d ++ more)) ++ rest) 0 = false ∧
      dataAt (spread (false :: (bitsLow d ++ more)) ++ rest) = d ∧
      ∀ k (hk : k < more.length), bitAt (spread (false :: (bitsLow d ++ more)) ++ rest) (9 + k) = more[k] := by
  have hlen : (bitsLow d).length = 8 := by simp [bitsLow]
  refine ⟨bitAt_spread _ rest 0 (by simp), dataAt_eq fun i hi => ?_, fun k hk => ?_⟩
  · rw [bitAt_spread _ rest (i + 1) (by simp [hlen]; omega)]
    simp [hi, List.getElem_append_left, bitsLow]
  · rw [bitAt_spread _ rest (9 + k) (by simp [hlen]; omega)]
    have e : 9 + k = (8 + k) + 1 := by omega
    simp only [e, List.getElem_cons_succ]
    rw [List.getElem_append_right (by omega)]
    simp [hlen]

theorem sbusChar_framed (d : Byte) (mark stop : Bool) (rest : List Bool) :
    sbusChar (spread (false :: (bitsLow d ++ [mark, stop])) ++ rest) = some ⟨d, mark, !stop⟩ := by
  obtain ⟨h0, hd, hk⟩ := bitAt_framed d [mark, stop] rest
  have h9 := hk 0 (by simp)
  have h10 := hk 1 (by simp)
  simp only [Nat.add_zero, List.getElem_cons_zero, List.getElem_cons_succ] at h9 h10
  simp [sbusChar, h0, hd, h9, h10]

theorem wrxChar_framed (d : Byte) (stop : Bool) (rest : List Bool) :
    wrxChar (spread (false :: (bitsLow d ++ [stop])) ++ rest) = some ⟨d, false, !stop⟩ := by
  obtain ⟨h0, hd, hk⟩ := bitAt_framed d [stop] rest
  have h9 := hk 0 (by simp)
  simp only [Nat.add_zero, List.getElem_cons_zero] at h9
  simp [wrxChar, h0, hd, h9]

/-! ## Where a character begins -/

theorem huntFrom_nil (n : Nat) (b : Bool) : huntFrom n b [] = [] := by
  induction n generalizing b with
  | zero => rfl
  | succ n ih => simp [huntFrom, ih]

theorem run_low {r : Receiver} {low : List Bool} (hm : r.mode = .waitHigh) (h : ∀ x ∈ low, x = false) : r.run low = [] := by
  have hs : findStart false low = [] := by simpa using findStart_low low [] h
  simp only [Receiver.run, hm]
  cases hn : low.length with
  | zero => rfl
  | succ n =>
    have hb : bitAt [] 0 = true := by decide
    simp only [huntFrom, hs, hb, if_true, List.drop_nil, huntFrom_nil]

/-- R25: a hunt that begins with a low line takes the first low sample behind a high one as its start. -/
theorem huntFrom_low {low high samples : List Bool} {b : Bool} {n : Nat} (hl : ∀ x ∈ low, x = false)
    (hb : low = [] ∨ b = false) (hh : ∀ x ∈ high, x = true) (hne : high ≠ []) (hs : samples.head? = some false)
    (h0 : bitAt samples 0 = false) : huntFrom (n + 1) b (low ++ high ++ samples) = samples := by
  obtain ⟨l, rfl⟩ := List.head?_eq_some_iff.mp hs
  have hstart : findStart b (low ++ high ++ false :: l) = false :: l := by
    rcases hb with rfl | rfl
    · exact findStart_high b high l hh hne
    · rw [List.append_assoc, findStart_low _ _ hl]
      exact findStart_high false high l hh hne
  rw [huntFrom_start _ _ _ (by rw [hstart]; exact h0), hstart]

/-! ## Characters that complete -/

/-- The receiver at a character's completion that finds the holding buffer empty. -/
theorem complete_empty {samples : List Bool} {c : RxChar} {r : Receiver} (h : r.holding = none) (keep heldTaken : Bool) :
    (r.completedAt samples c).complete keep c heldTaken =
      { r with holding := some c, mode := modeAfter c, lastHigh := samples.getLastD false } := by
  simp only [Receiver.complete, Receiver.completedAt_holding, h]
  rfl

/-- One that finds it full, when the assembler has taken the character held, and when it has not. -/
theorem complete_full {samples : List Bool} {c x : RxChar} {r : Receiver} (h : r.holding = some x) :
    (r.completedAt samples c).complete true c true =
        { r with taken := r.taken ++ [x], holding := some c, mode := modeAfter c, lastHigh := samples.getLastD false } ∧
      (r.completedAt samples c).complete true c false =
        { r with overrun := true, mode := modeAfter c, lastHigh := samples.getLastD false } := by
  simp only [Receiver.complete, Receiver.completedAt_holding, h]
  exact ⟨rfl, rfl⟩

theorem exec_sbus {s : State} (h : s.inReset = false) (samples : List Bool) (k : Bool) :
    exec (.characterCompletion .sbus samples k) s = .next (sbusCompletes samples k s) :=
  exec_event (f := sbusCompletes samples k) rfl h

theorem exec_wrx {s : State} (h : s.inReset = false) (samples : List Bool) (k : Bool) :
    exec (.characterCompletion .wrx samples k) s = .next (wrxCompletes samples k s) :=
  exec_event (f := wrxCompletes samples k) rfl h

/-- R26, R28: a character in a reply window or a reply. -/
theorem sbusCompletes_reply {samples : List Bool} {c : RxChar} {s : State} {a : Nat}
    (hc : sbusChar (s.bus.rx.run samples) = some c) (hp : s.bus.phase = .reply a ∨ s.bus.phase = .window a) (k : Bool) :
    sbusCompletes samples k s = { s with bus := { s.bus with
      phase := .reply a, rx := (s.bus.rx.completedAt samples c).complete true c k } } := by
  have hdeaf : s.bus.deaf = false := by rcases hp with e | e <;> simp [Bus.deaf, e]
  have hin : s.bus.inReply = true := by rcases hp with e | e <;> simp [Bus.inReply, e]
  have hbegun : s.bus.replyBegun = { s.bus with phase := .reply a } := by
    rcases hp with e | e
    · simp only [Bus.replyBegun, e]
      rw [← e]
    · simp only [Bus.replyBegun, e]
  simp only [sbusCompletes, hdeaf, hc, hin, if_true, withBus, hbegun]
  rfl

/-- R28: a character outside a reply is a stray. -/
theorem sbusCompletes_stray {samples : List Bool} {c : RxChar} {s : State}
    (hc : sbusChar (s.bus.rx.run samples) = some c) (hdeaf : s.bus.deaf = false) (hin : s.bus.inReply = false) (k : Bool) :
    sbusCompletes samples k s = addMember .busError { s with bus := { s.bus with
      rx := (s.bus.rx.completedAt samples c).complete false c k } } := by
  simp only [sbusCompletes, hdeaf, hc, hin]
  rfl

theorem released_receiving {r : Receiver} (h : r.mode = .receiving) : r.released.mode = .receiving := by
  simp [Receiver.released, h]

theorem run_receiving {r : Receiver} (hm : r.mode = .receiving) {samples : List Bool} (h : bitAt samples 0 = false) :
    r.run samples = samples := by
  simp [Receiver.run, hm, h]

/-- R26, R123, R124: a character on WRX that finds the holding buffer empty, and one that finds it full. -/
theorem wrxCompletes_empty {samples : List Bool} {c : RxChar} {s : State}
    (hc : wrxChar (s.carriage.rx.run samples) = some c) (h : s.carriage.rx.holding = none) (k : Bool) :
    wrxCompletes samples k s = withWrx { s.carriage.rx with
      holding := some c, mode := modeAfter c, lastHigh := samples.getLastD false } s := by
  have hheld : takeHeld (withWrx (s.carriage.rx.completedAt samples c) s) = withWrx (s.carriage.rx.completedAt samples c) s := by
    simp only [takeHeld, withWrx_rx, Receiver.completedAt_holding, h]
  simp only [wrxCompletes, hc, wrxDelivers, hheld, ite_self, withWrx_rx, Receiver.completedAt_holding, h]
  rfl

theorem wrxCompletes_overrun {samples : List Bool} {c x : RxChar} {s : State}
    (hc : wrxChar (s.carriage.rx.run samples) = some c) (h : s.carriage.rx.holding = some x) :
    wrxCompletes samples false s = withWrx { s.carriage.rx with
      overrun := true, mode := modeAfter c, lastHigh := samples.getLastD false } s := by
  simp only [wrxCompletes, hc, wrxDelivers, Bool.false_eq_true, if_false, withWrx_rx, Receiver.completedAt_holding, h]
  rfl

theorem wrxCompletes_taken {samples : List Bool} {c x y : RxChar} {n : Nat} {s : State}
    (hc : wrxChar (s.carriage.rx.run samples) = some c) (h : s.carriage.rx.holding = some x)
    (hy : (s.carriage.rx.taken ++ [x]).head? = some y) (hn : winchLength y.data = some n)
    (hlt : (s.carriage.rx.taken ++ [x]).length < n) :
    wrxCompletes samples true s = withWrx { s.carriage.rx with
      taken := s.carriage.rx.taken ++ [x], holding := some c, mode := modeAfter c, lastHigh := samples.getLastD false } s := by
  have hlen : messageLength (s.carriage.rx.taken ++ [x]) = n := by
    simp only [messageLength, hy, Option.map_some, Option.bind_some, hn, Option.getD_some]
  have hwhole : ((withWrx { s.carriage.rx.completedAt samples c with holding := none } s).carriage.rx.took x).messageWhole = false := by
    rw [← Bool.not_eq_true, Receiver.messageWhole_iff]
    simp only [withWrx_rx, Receiver.took, Receiver.completedAt_taken, hlen, not_and]
    intro _
    omega
  have hheld : takeHeld (withWrx (s.carriage.rx.completedAt samples c) s) =
      withWrx ((s.carriage.rx.completedAt samples c).tookAll [x] |> fun r => { r with holding := none }) s := by
    simp only [takeHeld, withWrx_rx, Receiver.completedAt_holding, h, withWrx_withWrx]
    rw [takeChar_short hwhole, withWrx_withWrx]
    rfl
  simp only [wrxCompletes, hc, wrxDelivers, hheld, if_true, withWrx_rx]
  rfl

theorem heard_hunts {r : Receiver} (samples : List Bool) (h : r.mode = .hunting ∨ r.mode = .receiving) :
    (r.heard samples).mode = .hunting := by
  rcases h with e | e <;> simp [Receiver.heard, e]

/-- Settles O22, from the samples of a bit, the receivers' hunts and the completions on either line. -/
theorem charactersAreDelivered : Obligations.CharactersAreDelivered := by
  refine ⟨fun samples k x y z hx hy hz => ?_, fun samples => ⟨fun h0 => ?_, fun h0 => ?_⟩, fun d mark stop rest => ⟨?_, ?_⟩,
    fun c d => ⟨?_, ?_⟩, fun r low high samples hlow => ⟨fun hm => ?_, fun hm hh hne hs h0 => ?_⟩,
    fun samples c s h hc => ⟨fun a k hp hhold => ?_, fun a x hp hhold => ?_, fun k hp => ?_⟩,
    fun samples c k s h hm h0 hc b hb => ?_,
    fun samples k s h => ⟨fun hc hp => ?_, fun a hp => ?_, fun hc => ?_, fun r => ⟨heard_hunts samples, by simp, by simp⟩⟩,
    fun samples c s h hc => ⟨fun k hhold => ?_, fun x hhold => ⟨fun y n hy hn hlt => ?_, ?_⟩⟩⟩
  · simp only [bitAt, List.getD_eq_getElem?_getD, hx, hy, hz, Option.getD_some]
    cases x <;> cases y <;> cases z <;> rfl
  · simp [sbusChar, wrxChar, h0]
  · exact ⟨dataAt samples, fun i hi => dataAt_getLsbD samples i hi, by simp [sbusChar, h0], by simp [wrxChar, h0]⟩
  · have e := sbusChar_framed d mark stop []
    rw [List.append_nil] at e
    exact e
  · exact wrxChar_framed d stop rest
  · have e := sbusChar_framed c.data c.mark true []
    rw [List.append_nil] at e
    exact e
  · have e := wrxChar_framed d true []
    rw [List.append_nil] at e
    exact e
  · refine ⟨run_low hm hlow, ?_⟩
    have hc : true ∉ low := fun e => absurd (hlow true e) (by simp)
    simp [Receiver.heard, hm, hc]
  · obtain ⟨n, hn⟩ : ∃ n, (low ++ high ++ samples).length = n + 1 := by
      cases high with
      | nil => exact absurd rfl hne
      | cons x l => exact ⟨low.length + l.length + samples.length, by simp; omega⟩
    rcases hm with hm | ⟨hm, hlow'⟩
    · simp only [Receiver.run, hm, hn]
      exact huntFrom_low hlow (.inr rfl) hh hne hs h0
    · simp only [Receiver.run, hm, hn]
      exact huntFrom_low hlow hlow' hh hne hs h0
  · rw [exec_sbus h, sbusCompletes_reply hc hp, complete_empty hhold]
    rfl
  · rw [exec_sbus h, exec_sbus h, sbusCompletes_reply hc (.inl hp), sbusCompletes_reply hc (.inl hp), (complete_full hhold).1,
      (complete_full hhold).2, ← hp]
    exact ⟨rfl, rfl⟩
  · have hdeaf : s.bus.deaf = false := by rcases hp with e | e <;> simp [Bus.deaf, e]
    have hin : s.bus.inReply = false := by rcases hp with e | e <;> simp [Bus.inReply, e]
    rw [exec_sbus h, sbusCompletes_stray hc hdeaf hin]
    exact ⟨_, rfl, by simp, rfl⟩
  · have hrx : b.rx = s.bus.rx.released := by rcases hb with e | e <;> rw [e] <;> rfl
    have hphase : b.phase = .idle := by rcases hb with e | e <;> rw [e] <;> rfl
    have hc' : sbusChar (({ s with bus := b } : State).bus.rx.run samples) = some c := by
      rw [show ({ s with bus := b } : State).bus.rx = s.bus.rx.released from hrx, run_receiving (released_receiving hm) h0]
      exact hc
    rw [exec_sbus (s := { s with bus := b }) h,
      sbusCompletes_stray hc' (by simp [Bus.deaf, hphase]) (by simp [Bus.inReply, hphase])]
    exact ⟨_, rfl, by simp⟩
  · have hdeaf : s.bus.deaf = false := by
      cases e : s.bus.phase <;> simp only [Bus.deaf, e]
      exact absurd e (hp _)
    rw [exec_sbus h]
    simp only [sbusCompletes, hdeaf, hc]
    rfl
  · have hdeaf : s.bus.deaf = true := by simp [Bus.deaf, hp]
    rw [exec_sbus h]
    simp [sbusCompletes, hdeaf]
  · rw [exec_wrx h]
    simp only [wrxCompletes, hc]
    rfl
  · rw [exec_wrx h, wrxCompletes_empty hc hhold]
    rfl
  · rw [exec_wrx h, wrxCompletes_taken hc hhold hy hn hlt]
    rfl
  · rw [exec_wrx h, wrxCompletes_overrun hc hhold]
    rfl

/-! ## O23: a reply's checks -/

/-- R188: the code of a head status. -/
def HeadStatus.code : HeadStatus → Byte
  | .ok => 0
  | .degraded => 1
  | .failed => 2

theorem headStatusOf_code (h : HeadStatus) : headStatusOf h.code = some h := by cases h <;> rfl

/-- R188: the characters of a POLL reply before its sum. -/
def pollBody (addr : Nat) (raw : BitVec 24) (h : HeadStatus) : List Byte :=
  [BitVec.ofNat 8 addr, 0, 4, raw.extractLsb' 0 8, raw.extractLsb' 8 8, raw.extractLsb' 16 8, h.code]

theorem sumOf_closed (l : List Byte) (delta : Byte) : sumOf (l ++ [(0 - sumOf l) + delta]) = delta := by
  have h : sumOf [(0 - sumOf l) + delta] = (0 - sumOf l) + delta := by simp [sumOf]
  rw [sumOf_append, h, ← BitVec.add_assoc, BitVec.add_comm (sumOf l), BitVec.sub_add_cancel]
  exact BitVec.zero_add delta

/-- R29: the checks of a laid-out POLL reply: only the sum can fail. -/
theorem garbleOf_pollBody (addr : Nat) (raw : BitVec 24) (h : HeadStatus) (sum : Byte) :
    garbleOf .poll addr false ((pollBody addr raw h ++ [sum]).map fun c => ⟨c, false, false⟩) =
      if sumOf (pollBody addr raw h ++ [sum]) ≠ 0 then some .sum else none := by
  have hdata : ((pollBody addr raw h ++ [sum]).map fun c => (⟨c, false, false⟩ : RxChar)).map (·.data) =
      pollBody addr raw h ++ [sum] := by simp [Function.comp_def]
  have hcontent : contentFails .poll (pollBody addr raw h ++ [sum]) = false := by
    have hc := headStatusOf_code h
    simp [contentFails, pollBody, hc]
  have hflags : ((pollBody addr raw h ++ [sum]).map fun c => (⟨c, false, false⟩ : RxChar)).any (·.framing) = false ∧
      ((pollBody addr raw h ++ [sum]).map fun c => (⟨c, false, false⟩ : RxChar)).any (·.mark) = false := by simp
  have hhead : (pollBody addr raw h ++ [sum]).head? = some (BitVec.ofNat 8 addr) := rfl
  have hlen : ¬ (((pollBody addr raw h ++ [sum]).getD 2 0).toNat ≠ Work.poll.payload ∨
      (pollBody addr raw h ++ [sum]).length ≠ 4 + Work.poll.payload) := by simp [pollBody, Work.payload]
  unfold garbleOf
  simp only [hdata, hcontent, hflags.1, hflags.2, hhead, if_neg hlen, Bool.false_eq_true, if_false, ne_eq, not_true_eq_false]

/-- Settles O23, from the checks in their order. -/
theorem aWellFormedPollReplyIsGood : Obligations.AWellFormedPollReplyIsGood := by
  intro addr raw h delta rx ho hh
  have key : ∀ chars, chars = pollBody addr raw h ++ [(0 - sumOf (pollBody addr raw h)) + delta] →
      rx.taken = chars.map (fun c => ⟨c, false, false⟩) →
      (delta = 0 → replyOf .poll addr rx = .good chars ∧ readingOf chars = (raw.toInt, h)) ∧
        (delta ≠ 0 → replyOf .poll addr rx = .garbled .sum) := by
    intro chars hc ht
    have hassembled : rx.assembled = chars.map fun c => ⟨c, false, false⟩ := by simp [Receiver.assembled, hh, ht]
    have hgarble : garbleOf .poll addr rx.overrun rx.assembled = if delta ≠ 0 then some .sum else none := by
      rw [ho, hassembled, hc, garbleOf_pollBody, sumOf_closed]
    refine ⟨fun hd => ⟨?_, ?_⟩, fun hd => ?_⟩
    · rw [replyOf, hgarble, hassembled]
      simp [hd, Function.comp_def]
    · have hraw := triple_of_bytes raw
      have hcode := headStatusOf_code h
      simp [hc, pollBody, readingOf, rawOf, hraw, hcode]
    · rw [replyOf, hgarble, if_pos hd]
  cases h <;> exact key _ rfl

end Sys2Proof.Machine
end

section
/-! The arithmetic of chapter 5 (R88 to R92): the quotients to the nearest whole number, the effective shift of a lawful
list, and the discharge of a sealed rating. -/

namespace Sys2Proof.Machine

/-! ## Quotients to the nearest -/

/-- A share of a step is at most the step. -/
theorem halfUp_share_le (a : Nat) {k d : Nat} (hd : 0 < d) (hk : k ≤ d) : halfUp (a * k) d ≤ a := by
  have h : 2 * (a * k) + d < 2 * d * (a + 1) :=
    calc 2 * (a * k) + d ≤ 2 * (a * d) + d := by have := Nat.mul_le_mul_left a hk; omega
      _ < 2 * (a * d) + 2 * d := by omega
      _ = 2 * d * (a + 1) := by ring
  exact Nat.lt_succ_iff.mp (Nat.div_lt_of_lt_mul h)

/-- A share of a signed step lies between 0 and the step. -/
theorem halfAway_share (a : Int) {k d : Nat} (hd : 0 < d) (hk : k ≤ d) :
    (0 ≤ a → 0 ≤ halfAway (a * (k : Int)) d ∧ halfAway (a * (k : Int)) d ≤ a) ∧
      (a ≤ 0 → a ≤ halfAway (a * (k : Int)) d ∧ halfAway (a * (k : Int)) d ≤ 0) := by
  have key : ∀ n : Nat, halfUp (n * k) d ≤ n := fun n => halfUp_share_le n hd hk
  constructor
  · intro ha
    obtain ⟨n, rfl⟩ := Int.eq_ofNat_of_zero_le ha
    have hn : (0 : Int) ≤ (n : Int) * (k : Int) := by positivity
    have e : ((n : Int) * (k : Int)).toNat = n * k := by rw [← Nat.cast_mul, Int.toNat_natCast]
    rw [halfAway, if_pos hn, e]
    have := key n
    omega
  · intro ha
    obtain ⟨n, hn⟩ := Int.eq_ofNat_of_zero_le (Int.neg_nonneg.mpr ha)
    obtain rfl : a = -(n : Int) := by omega
    have e : (-(-(n : Int) * (k : Int))).toNat = n * k := by
      rw [Int.neg_mul, Int.neg_neg, ← Nat.cast_mul, Int.toNat_natCast]
    rw [halfAway]
    split
    · next h0 =>
      have hz : (n : Int) * (k : Int) = 0 := by
        have : (0 : Int) ≤ (n : Int) * (k : Int) := by positivity
        rw [Int.neg_mul] at h0
        omega
      rw [Int.neg_mul, hz]
      have : halfUp 0 d = 0 := (halfUp_eq_zero_iff 0 hd).mpr (by omega)
      simp [this]
    · rw [e]
      have := key n
      omega

theorem halfAway_eq (n : Int) (d : Nat) :
    halfAway n d = if 0 ≤ n then (2 * n + d) / (2 * d) else -((2 * -n + d) / (2 * d)) := by
  simp only [halfAway, halfUp]
  split
  · next h => rw [Int.natCast_ediv]; push_cast; rw [Int.toNat_of_nonneg h]
  · next h => rw [Int.natCast_ediv]; push_cast; rw [Int.toNat_of_nonneg (by omega : 0 ≤ -n)]

/-! ## O31: the effective shift -/

/-- R88: behind its first record a list is read from its second. -/
theorem effectiveShift_later {x y : Shift} {l : List Shift} {t : Nat} (hxy : x.time < y.time) (h : y.time ≤ t) :
    effectiveShift (x :: y :: l) t = effectiveShift (y :: l) t := by
  rw [effectiveShift, if_neg (by omega), if_neg (by omega)]

theorem effectiveShift_before {x : Shift} {l : List Shift} {t : Nat} (h : t ≤ x.time) :
    effectiveShift (x :: l) t = x.shift := by
  cases l with
  | nil => rfl
  | cons y l => rw [effectiveShift, if_pos h]

theorem effectiveShift_between {x y : Shift} {l : List Shift} {t : Nat} (h1 : x.time < t) (h2 : t < y.time) :
    effectiveShift (x :: y :: l) t =
      x.shift + halfAway ((y.shift - x.shift) * ((t - x.time : Nat) : Int)) (y.time - x.time) := by
  rw [effectiveShift, if_neg (by omega), if_pos h2]

/-- R88: the effective shift lies within the bounds of the records' shifts. -/
theorem effectiveShift_range {lo hi : Int} (h0 : lo ≤ 0 ∧ 0 ≤ hi) (l : List Shift) (t : Nat)
    (h : ∀ x ∈ l, lo ≤ x.shift ∧ x.shift ≤ hi) : lo ≤ effectiveShift l t ∧ effectiveShift l t ≤ hi := by
  induction l with
  | nil => exact h0
  | cons x l ih =>
    have hx := h x (by simp)
    cases l with
    | nil => exact hx
    | cons y l =>
      have hy := h y (by simp)
      rw [effectiveShift]
      split
      · exact hx
      · split
        · next h1 h2 =>
          have hs := halfAway_share (y.shift - x.shift) (k := t - x.time) (d := y.time - x.time) (by omega) (by omega)
          rcases Int.le_total 0 (y.shift - x.shift) with hle | hle
          · have := hs.1 hle
            omega
          · have := hs.2 hle
            omega
        · exact ih fun z hz => h z (List.mem_cons_of_mem _ hz)

/-- R88: behind the records that have passed. -/
theorem effectiveShift_drop {l1 l2 : List Shift} {x : Shift} {t : Nat} (h : (l1 ++ x :: l2).Pairwise fun a b => a.time < b.time)
    (hx : x.time ≤ t) : effectiveShift (l1 ++ x :: l2) t = effectiveShift (x :: l2) t := by
  induction l1 with
  | nil => rfl
  | cons z l1 ih =>
    obtain ⟨hz, hl⟩ := List.pairwise_cons.mp h
    rw [← ih hl]
    cases l1 with
    | nil => exact effectiveShift_later (hz x (by simp)) hx
    | cons w l1 =>
      have hw : w.time < x.time := (List.pairwise_cons.mp hl).1 x (by simp)
      exact effectiveShift_later (hz w (by simp)) (by omega)

theorem shiftOk_range {v : Int} (h : shiftOk v = true) : -2000 ≤ v ∧ v ≤ 2000 := by
  simpa [shiftOk, inRange] using h

/-- Settles O31: a list is read from the last record that has passed. -/
theorem theEffectiveShiftStaysInRange : Obligations.TheEffectiveShiftStaysInRange := by
  intro l t hl
  obtain ⟨_, hsorted, hrange⟩ := hl
  obtain ⟨hlo, hhi⟩ := effectiveShift_range (lo := -2000) (hi := 2000) (by omega) l t fun x hx => shiftOk_range (hrange x hx)
  have passed : ∀ l1 x l2, l = l1 ++ x :: l2 → x.time ≤ t → effectiveShift l t = effectiveShift (x :: l2) t := by
    intro l1 x l2 e hx
    subst e
    exact effectiveShift_drop hsorted hx
  refine ⟨hlo, hhi, fun e => by rw [e]; rfl, fun x hx ht => ?_, fun x hx ht => ?_, fun x hx ht => ?_,
    fun n d _ => halfAway_eq n d, fun l1 x y l2 e h1 h2 => ?_⟩
  · obtain ⟨l1, l2, e⟩ := List.append_of_mem hx
    rw [passed l1 x l2 e (by omega)]
    exact effectiveShift_before (by omega)
  · obtain ⟨l2, rfl⟩ := List.head?_eq_some_iff.mp hx
    exact effectiveShift_before ht
  · obtain ⟨l1, e⟩ := List.getLast?_eq_some_iff.mp hx
    rw [passed l1 x [] e ht]
    rfl
  · rw [passed l1 x (y :: l2) e (by omega)]
    exact effectiveShift_between h1 h2

/-! ## O32: the discharge -/

theorem lastSegment_append (l : List Point) (a z : Point) : lastSegment (l ++ [a, z]) = some (a, z) := by
  induction l with
  | nil => rfl
  | cons x l ih =>
    cases l with
    | nil => rfl
    | cons y l =>
      cases l with
      | nil => rfl
      | cons w l => simpa [lastSegment] using ih

/-- A list of two points or more by its last segment. -/
theorem exists_lastSegment {l : List Point} (h : 2 ≤ l.length) : ∃ l1 a z, l = l1 ++ [a, z] := by
  rcases List.eq_nil_or_concat l with rfl | ⟨k, z, rfl⟩
  · simp at h
  · rcases List.eq_nil_or_concat k with rfl | ⟨m, a, rfl⟩
    · simp at h
    · exact ⟨m, a, z, by simp⟩

theorem interpolated_later {a b : Point} {l : List Point} {h : Int} (hb : b.stage < h) :
    interpolated (a :: b :: l) h = interpolated (b :: l) h := by
  rw [interpolated, if_neg (by omega)]

/-- R90: behind the points that lie below. -/
theorem interpolated_drop {l1 l2 : List Point} {x : Point} {h : Int}
    (hs : (l1 ++ x :: l2).Pairwise fun a b => a.stage < b.stage) (hx : x.stage < h) :
    interpolated (l1 ++ x :: l2) h = interpolated (x :: l2) h := by
  induction l1 with
  | nil => rfl
  | cons z l1 ih =>
    obtain ⟨hz, hl⟩ := List.pairwise_cons.mp hs
    rw [← ih hl]
    cases l1 with
    | nil => exact interpolated_later hx
    | cons w l1 =>
      have hw : w.stage < x.stage := (List.pairwise_cons.mp hl).1 x (by simp)
      exact interpolated_later (by omega)

/-- R90: at a point's stage. -/
theorem interpolated_at {a b : Point} {l : List Point} : interpolated (a :: b :: l) b.stage = b.discharge := by
  rw [interpolated, if_pos (Int.le_refl _), if_pos rfl]

/-- R90: an interpolated discharge lies within the bound of the points' discharges. -/
theorem interpolated_le {m : Nat} (l : List Point) (h : Int) (hm : ∀ x ∈ l, x.discharge ≤ m)
    (hs : l.Pairwise fun a b => a.stage < b.stage) (hq : l.Pairwise fun a b => a.discharge ≤ b.discharge) :
    interpolated l h ≤ m := by
  induction l with
  | nil => exact Nat.zero_le _
  | cons a l ih =>
    cases l with
    | nil => exact Nat.zero_le _
    | cons b l =>
      have hb := hm b (by simp)
      have hab := (List.pairwise_cons.mp hs).1 b (by simp)
      have hqab := (List.pairwise_cons.mp hq).1 b (by simp)
      rw [interpolated]
      split
      · split
        · exact hb
        · have := halfUp_share_le (b.discharge - a.discharge) (k := (h - a.stage).toNat) (d := (b.stage - a.stage).toNat)
            (by omega) (by omega)
          simp only [segmentStep]
          omega
      · exact ih (fun x hx => hm x (List.mem_cons_of_mem _ hx)) (List.pairwise_cons.mp hs).2 (List.pairwise_cons.mp hq).2

/-- R89 to R92: the discharge of a list by its first point and its last segment. -/
theorem dischargeAt_eq {l l1 : List Point} {first a z : Point} (hf : l.head? = some first) (hz : l = l1 ++ [a, z])
    (allowance : Nat) (h : Int) : dischargeAt l allowance h =
      if h < first.stage then ⟨0, true, false, false⟩
      else if h = first.stage then ⟨first.discharge, false, false, false⟩
      else if h ≤ z.stage then ⟨interpolated l h, false, false, false⟩
      else ⟨min (extendedAt a z (min h (z.stage + allowance))) 20000000, false, true,
        decide (z.stage + allowance < h ∨ 20000000 < extendedAt a z (min h (z.stage + allowance)))⟩ := by
  have hl : lastSegment l = some (a, z) := by rw [hz]; exact lastSegment_append l1 a z
  have hmin : (if h ≤ z.stage + (allowance : Int) then h else z.stage + allowance) = min h (z.stage + allowance) := by
    rw [Int.min_def]
  simp only [dischargeAt, hf, hl, hmin, maxDischarge, Bool.decide_or]

/-- Settles O32, by where the stage lies among the points. -/
theorem theDischargeStaysInRange : Obligations.TheDischargeStaysInRange := by
  intro l allowance h hl h2 hq
  obtain ⟨_, hsorted, hrange⟩ := hl
  have hmax : ∀ x ∈ l, x.discharge ≤ 20000000 := fun x hx => (hrange x hx).2
  obtain ⟨l1, a, z, hz⟩ := exists_lastSegment h2
  obtain ⟨first, hf⟩ : ∃ first, l.head? = some first := by
    cases l with
    | nil => simp at h2
    | cons x l => exact ⟨x, rfl⟩
  obtain ⟨tail, htail⟩ := List.head?_eq_some_iff.mp hf
  have hfirst : ∀ x ∈ tail, first.stage < x.stage := by
    rw [htail] at hsorted
    exact (List.pairwise_cons.mp hsorted).1
  have hlast : ∀ x ∈ l, x.stage ≤ z.stage := by
    intro x hx
    rw [hz] at hx hsorted
    have hsplit : l1 ++ [a, z] = (l1 ++ [a]) ++ [z] := by simp
    rw [hsplit] at hx hsorted
    rcases List.mem_append.mp hx with hx | hx
    · exact Int.le_of_lt ((List.pairwise_append.mp hsorted).2.2 x hx z (by simp))
    · rw [List.mem_singleton.mp hx]
  have passed : ∀ k x m, l = k ++ x :: m → x.stage < h → interpolated l h = interpolated (x :: m) h := by
    intro k x m e hx
    subst e
    exact interpolated_drop hsorted hx
  have e := dischargeAt_eq hf hz allowance h
  refine ⟨?_, fun x hx hlt => ?_, fun x hx hxh => ?_, fun n d hd => ?_, fun k x y m hk hx hy => ?_, fun k x y q hk hy hqe => ?_⟩
  · rw [e]
    split
    · exact Nat.zero_le _
    · split
      · exact hmax first (by rw [htail]; simp)
      · split
        · exact interpolated_le l h hmax hsorted hq
        · exact Nat.min_le_right ..
  · rw [hf] at hx
    obtain rfl := Option.some.inj hx
    rw [e, if_pos hlt]
  · rw [htail] at hx
    rcases List.mem_cons.mp hx with rfl | hx
    · rw [e, if_neg (by omega), if_pos hxh.symm]
    · have hlt := hfirst x hx
      have hle := hlast x (by rw [htail]; exact List.mem_cons_of_mem _ hx)
      rw [e, if_neg (by omega), if_neg (by omega), if_pos (by omega)]
      obtain ⟨t1, t2, rfl⟩ := List.append_of_mem hx
      obtain ⟨k, w, hk⟩ : ∃ k w, first :: t1 = k ++ [w] :=
        ⟨_, _, (List.dropLast_append_getLast (List.cons_ne_nil first t1)).symm⟩
      have hkl : l = k ++ w :: x :: t2 := by
        rw [htail, ← List.cons_append, hk]
        simp
      have hwx : w.stage < x.stage := by
        rw [hkl] at hsorted
        exact (List.pairwise_cons.mp (List.pairwise_append.mp hsorted).2.1).1 x (by simp)
      rw [passed k w (x :: t2) hkl (by omega), ← hxh, interpolated_at]
  · have := Nat.div_add_mod (2 * n + d) (2 * d)
    have hlt := Nat.mod_lt (2 * n + d) (show 0 < 2 * d by omega)
    rw [halfUp]
    constructor
    · omega
    · rw [Nat.mul_add]; omega
  · have hxl : x ∈ l := by rw [hk]; simp
    have hyl := hlast y (by rw [hk]; simp)
    have hfx : first.stage ≤ x.stage := by
      rw [htail] at hxl
      rcases List.mem_cons.mp hxl with rfl | hxl
      · exact Int.le_refl _
      · exact Int.le_of_lt (hfirst x hxl)
    rw [e, if_neg (by omega), if_neg (by omega), if_pos (by omega), passed k x (y :: m) hk hx, interpolated,
      if_pos (by omega), if_neg (by omega)]
    rfl
  · obtain ⟨rfl, hxy⟩ : k = l1 ∧ x = a ∧ y = z := by
      have := hk.symm.trans hz
      have hlen : k.length = l1.length := by simpa using congrArg List.length this
      obtain ⟨h1, h2⟩ := List.append_inj this hlen
      simpa using And.intro h1 h2
    obtain ⟨rfl, rfl⟩ := hxy
    have hfz := hlast first (by rw [htail]; simp)
    rw [e, if_neg (by omega), if_neg (by omega), if_neg (by omega), hqe]
    rfl

end Sys2Proof.Machine
end

section
/-! The stage selector (R42 to R57): the candidates and their order, the settled source, and what a close leaves of the
selector's record. -/

namespace Sys2Proof.Machine

/-! ## The order of candidates (R46) -/

/-- R46: what a candidate is ranked by, in a lexicographic order. -/
def Candidate.key (c : Candidate) : ℕ ×ₗ Bool ×ₗ ℕ ×ₗ Fin 5 := toLex (c.cls, toLex (c.degraded, toLex (c.kind, c.src.index)))

theorem ranksAbove_iff (a b : Candidate) : ranksAbove a b = true ↔ a.cls < b.cls ∨ (a.cls = b.cls ∧
    ((a.degraded = false ∧ b.degraded = true) ∨ (a.degraded = b.degraded ∧
      (a.kind < b.kind ∨ (a.kind = b.kind ∧ a.src.index < b.src.index))))) := by
  simp only [ranksAbove]
  split
  · next h => simp only [decide_eq_true_eq]; omega
  · next h =>
    have hc : a.cls = b.cls := by simpa using h
    split
    · next hd => cases ha : a.degraded <;> cases hb : b.degraded <;> simp_all
    · next hd =>
      have hdeg : a.degraded = b.degraded := by simpa using hd
      split
      · next hk => simp [hc, hdeg]; omega
      · next hk =>
        have hkind : a.kind = b.kind := by simpa using hk
        simp [hc, hdeg, hkind]

theorem ranksAbove_iff_key (a b : Candidate) : ranksAbove a b = true ↔ a.key < b.key := by
  rw [ranksAbove_iff]
  simp only [Candidate.key, Prod.Lex.toLex_lt_toLex, Bool.lt_iff]

theorem ranksAbove_asymm {a b : Candidate} (h : ranksAbove a b = true) : ranksAbove b a = false := by
  rw [Bool.eq_false_iff, ne_eq, ranksAbove_iff_key]
  exact ((ranksAbove_iff_key a b).mp h).asymm

theorem ranksAbove_trans {a b c : Candidate} (h1 : ranksAbove a b = true) (h2 : ranksAbove b c = true) :
    ranksAbove a c = true :=
  (ranksAbove_iff_key a c).mpr (((ranksAbove_iff_key a b).mp h1).trans ((ranksAbove_iff_key b c).mp h2))

theorem index_sourceAt (i : Fin 5) : (sourceAt i).index = i := by revert i; decide

theorem sourceAt_index (x : Source) : sourceAt x.index = x := by
  cases x with
  | port p => simp [sourceAt, Source.index]
  | observer => rfl

theorem ranksAbove_total {a b : Candidate} (h : a.src ≠ b.src) : ranksAbove a b = true ∨ ranksAbove b a = true := by
  have hk : a.key ≠ b.key := fun e => h <| by
    have hi : a.src.index = b.src.index := congrArg (fun k => (ofLex (ofLex (ofLex k).2).2).2) e
    rw [← sourceAt_index a.src, hi, sourceAt_index]
  rw [ranksAbove_iff_key, ranksAbove_iff_key]
  exact lt_or_gt_of_ne hk

/-! ## The best of a list -/

theorem bestOf_none {l : List Candidate} : bestOf l = none ↔ l = [] := by
  cases l with
  | nil => simp [bestOf]
  | cons c l =>
    simp only [bestOf, reduceCtorEq, iff_false]
    cases bestOf l with
    | none => simp
    | some d => dsimp only; split <;> simp

theorem bestOf_mem {l : List Candidate} {b : Candidate} (h : bestOf l = some b) : b ∈ l := by
  induction l generalizing b with
  | nil => simp [bestOf] at h
  | cons c l ih =>
    simp only [bestOf] at h
    cases hl : bestOf l with
    | none => simp_all
    | some d =>
      rw [hl] at h
      dsimp only at h
      split at h
      · exact List.mem_cons_of_mem _ (ih (hl.trans h))
      · simp_all

/-- R46: a candidate above every other of a list is its best. -/
theorem bestOf_top {l : List Candidate} {b : Candidate} (h : topOf l b) : bestOf l = some b := by
  induction l with
  | nil => exact absurd h.1 (by simp)
  | cons c l ih =>
    obtain ⟨hm, habove⟩ := h
    cases hl : bestOf l with
    | none =>
      rw [bestOf_none.mp hl] at hm
      simp [bestOf, bestOf_none.mp hl, List.mem_singleton.mp hm]
    | some d =>
      simp only [bestOf, hl]
      by_cases hbl : b ∈ l
      · obtain rfl : d = b := Option.some.inj (hl.symm.trans (ih ⟨hbl, fun e he => habove e (List.mem_cons_of_mem _ he)⟩))
        by_cases hcd : c = d
        · simp [hcd]
        · simp [habove c (by simp) hcd]
      · obtain rfl : b = c := (List.mem_cons.mp hm).resolve_right hbl
        have hdl := bestOf_mem hl
        have hne : d ≠ b := fun e => hbl (e ▸ hdl)
        simp [ranksAbove_asymm (habove d (List.mem_cons_of_mem _ hdl) hne)]

/-- R46: among candidates of different identities the best ranks above every other. -/
theorem topOf_best {l : List Candidate} (hn : (l.map (·.src)).Nodup) {b : Candidate} (h : bestOf l = some b) : topOf l b := by
  refine ⟨bestOf_mem h, ?_⟩
  induction l generalizing b with
  | nil => simp
  | cons c l ih =>
    obtain ⟨hc, hn⟩ := List.nodup_cons.mp (List.map_cons ▸ hn)
    have hsrc : ∀ e ∈ l, c.src ≠ e.src := fun e he heq => hc (heq ▸ List.mem_map_of_mem he)
    simp only [bestOf] at h
    cases hl : bestOf l with
    | none =>
      rw [bestOf_none.mp hl] at h ⊢
      simp_all [bestOf]
    | some d =>
      have hd := ih hn hl
      have hdl := bestOf_mem hl
      rw [hl] at h
      dsimp only at h
      intro e he hne
      split at h
      · next hdc =>
        obtain rfl := Option.some.inj h
        rcases List.mem_cons.mp he with rfl | he
        · exact hdc
        · exact hd e he hne
      · next hdc =>
        obtain rfl := Option.some.inj h
        have hcd : ranksAbove c d = true := (ranksAbove_total (hsrc d hdl)).resolve_right hdc
        have hel := (List.mem_cons.mp he).resolve_left hne
        by_cases hed : e = d
        · rw [hed]; exact hcd
        · exact ranksAbove_trans hcd (hd e hel hed)

/-! ## The candidates of a close (R42 to R45) -/

theorem stageOk_iff (h : Int) : stageOk h = true ↔ -2000 ≤ h ∧ h ≤ 30000 := by simp [stageOk, inRange]

theorem disposition_candidate_iff (r : Port) (o : Option ReadingRecord) (h : Int) : disposition r o = .candidate h ↔
    ∃ rec raw, o = some rec ∧ rec.silent = false ∧ rec.raw = some raw ∧ rec.head ≠ some .failed ∧
      stageOk h = true ∧ h = convertedStage r raw := by
  cases o with
  | none => simp [disposition]
  | some rec =>
    simp only [disposition]
    split
    · next hs => simp [hs]
    · next hs =>
      cases hraw : rec.raw with
      | none => simp [hraw]
      | some raw =>
        dsimp only
        split
        · next hf => simp [hf]
        · next hf =>
          split
          · next hok =>
            simp only [Disposition.candidate.injEq, Option.some.injEq]
            constructor
            · rintro rfl
              exact ⟨rec, raw, rfl, by simpa using hs, hraw, hf, hok, rfl⟩
            · rintro ⟨_, raw', rfl, _, hr, _, _, rfl⟩
              rw [hraw] at hr
              rw [Option.some.inj hr]
          · next hok =>
            simp only [reduceCtorEq, Option.some.injEq, false_iff]
            rintro ⟨_, raw', rfl, _, hr, _, hk, rfl⟩
            rw [hraw] at hr
            rw [← Option.some.inj hr] at hk
            exact hok hk

/-- R45: the candidate of a port. -/
theorem portCandidate_iff (ports : Vector Port 4) (recs : List ReadingRecord) (p : Fin 4) (c : Candidate) :
    portCandidate ports recs p = some c ↔ ∃ rec raw, recordOf recs p = some rec ∧ rec.silent = false ∧ rec.raw = some raw ∧
      rec.head ≠ some .failed ∧ stageOk (convertedStage (ports.get p) raw) = true ∧
      c = ⟨.port p, (ports.get p).cls, rec.head == some .degraded, (ports.get p).kind.order, convertedStage (ports.get p) raw⟩ := by
  simp only [portCandidate]
  constructor
  · intro h
    split at h
    case h_1 v hd =>
      obtain ⟨rec, raw, hr, hs, hraw, hf, hok, rfl⟩ := (disposition_candidate_iff ..).mp hd
      refine ⟨rec, raw, hr, hs, hraw, hf, hok, ?_⟩
      rw [hr] at h
      exact (Option.some.inj h).symm
    all_goals exact absurd h (by simp)
  · rintro ⟨rec, raw, hr, hs, hraw, hf, hok, rfl⟩
    have hd := (disposition_candidate_iff (ports.get p) (recordOf recs p) _).mpr ⟨rec, raw, hr, hs, hraw, hf, hok, rfl⟩
    rw [hr] at hd
    simp only [hr, hd]
    rfl

theorem observerCandidate_iff (t : Nat) (sel : Selector) (c : Candidate) : observerCandidate t sel = some c ↔
    ∃ e, sel.observerEntry = some e ∧ e.time ≤ t ∧ t ≤ e.time + 1800 ∧ c = ⟨.observer, sel.observerClass, false, 3, e.stage⟩ := by
  simp only [observerCandidate]
  cases sel.observerEntry with
  | none => simp
  | some e =>
    dsimp only
    split
    · next hf =>
      simp only [freshAt, Bool.and_eq_true, decide_eq_true_eq] at hf
      simp [hf, eq_comm]
    · next hf =>
      simp only [freshAt, Bool.and_eq_true, decide_eq_true_eq] at hf
      simp only [reduceCtorEq, Option.some.injEq, false_iff]
      rintro ⟨_, rfl, h1, h2, _⟩
      exact hf ⟨h1, h2⟩

theorem mem_candidatesAt (t : Nat) (ports : Vector Port 4) (recs : List ReadingRecord) (sel : Selector) (c : Candidate) :
    c ∈ candidatesAt t ports recs sel ↔ (∃ p, portCandidate ports recs p = some c) ∨ observerCandidate t sel = some c := by
  simp [candidatesAt]

theorem portCandidate_src {ports : Vector Port 4} {recs : List ReadingRecord} {p : Fin 4} {c : Candidate}
    (h : portCandidate ports recs p = some c) : c.src = .port p := by
  obtain ⟨_, _, _, _, _, _, _, rfl⟩ := (portCandidate_iff ..).mp h
  rfl

theorem portCandidates_nodup (ports : Vector Port 4) (recs : List ReadingRecord) (l : List (Fin 4)) (hl : l.Nodup) :
    ((l.filterMap (portCandidate ports recs)).map (·.src)).Nodup := by
  induction l with
  | nil => simp
  | cons p l ih =>
    obtain ⟨hp, hl⟩ := List.nodup_cons.mp hl
    cases hc : portCandidate ports recs p with
    | none => rw [List.filterMap_cons_none hc]; exact ih hl
    | some c =>
      rw [List.filterMap_cons_some hc, List.map_cons, List.nodup_cons]
      refine ⟨fun hm => ?_, ih hl⟩
      obtain ⟨d, hd, he⟩ := List.mem_map.mp hm
      obtain ⟨q, hq, hdq⟩ := List.mem_filterMap.mp hd
      rw [portCandidate_src hdq, portCandidate_src hc] at he
      obtain rfl : q = p := by simpa using he
      exact hp hq

/-- R45: no identity is a candidate twice. -/
theorem candidatesAt_nodup (t : Nat) (ports : Vector Port 4) (recs : List ReadingRecord) (sel : Selector) :
    ((candidatesAt t ports recs sel).map (·.src)).Nodup := by
  rw [candidatesAt, List.map_append, List.nodup_append]
  refine ⟨portCandidates_nodup ports recs _ (List.nodup_finRange 4), ?_, ?_⟩
  · cases observerCandidate t sel <;> simp
  · intro a ha b hb e
    obtain ⟨c, hc, rfl⟩ := List.mem_map.mp ha
    obtain ⟨d, hd, rfl⟩ := List.mem_map.mp hb
    obtain ⟨p, _, hp⟩ := List.mem_filterMap.mp hc
    obtain ⟨_, _, _, _, rfl⟩ := (observerCandidate_iff ..).mp (Option.mem_toList.mp hd)
    rw [portCandidate_src hp] at e
    simp at e

/-! ## The source of a close (R46 to R49) -/

theorem candidateOf_eq {l : List Candidate} (hn : (l.map (·.src)).Nodup) {c : Candidate} (hc : c ∈ l) :
    candidateOf l c.src = some c := by
  have huniq : ∀ d ∈ l, d.src = c.src → d = c := fun d hd e => List.inj_on_of_nodup_map hn hd hc e
  cases h : candidateOf l c.src with
  | none => exact absurd (List.find?_eq_none.mp h c hc) (by simp)
  | some d =>
    have hd := List.find?_some h
    rw [huniq d (List.mem_of_find?_eq_some h) (by simpa using hd)]

theorem candidateOf_some {l : List Candidate} {src : Source} {c : Candidate} (h : candidateOf l src = some c) :
    c ∈ l ∧ c.src = src := ⟨List.mem_of_find?_eq_some h, by simpa using List.find?_some h⟩

theorem candidateOf_none {l : List Candidate} {src : Source} : candidateOf l src = none ↔ ∀ c ∈ l, c.src ≠ src := by
  simp [candidateOf]

/-- R47: whether an identity outranks the current source. -/
theorem outranksSource_iff {l : List Candidate} (hn : (l.map (·.src)).Nodup) (current : Option Source) (src : Source) :
    outranksSource l current src = true ↔
      ∃ c ∈ l, ∃ d ∈ l, current = some c.src ∧ d.src = src ∧ ranksAbove d c = true := by
  simp only [outranksSource]
  constructor
  · intro h
    split at h
    · next c d hc hd =>
      obtain ⟨s, hs, hcs⟩ := Option.bind_eq_some_iff.mp hc
      obtain ⟨hcm, hce⟩ := candidateOf_some hcs
      obtain ⟨hdm, hde⟩ := candidateOf_some hd
      exact ⟨c, hcm, d, hdm, by rw [hs, hce], hde, h⟩
    · exact absurd h (by simp)
  · rintro ⟨c, hc, d, hd, rfl, rfl, habove⟩
    simp only [Option.bind_some, candidateOf_eq hn hc, candidateOf_eq hn hd, habove]

theorem leadsAt_get (l : List Candidate) (sel : Selector) (i : Fin 5) : (leadsAt l sel).get i =
    if outranksSource l sel.source (sourceAt i) = true then saturatingSucc 255 (sel.leads.get i) else 0 := by
  simp [leadsAt]

/-- R48: the candidates that have led for the return delay, when the current source is a candidate. -/
theorem overdue_eq {l : List Candidate} (hn : (l.map (·.src)).Nodup) {sel : Selector} {c : Candidate} (hc : c ∈ l)
    (hs : sel.source = some c.src) : overdue l sel =
      l.filter fun e => ranksAbove e c && decide (sel.returnDelay ≤ saturatingSucc 255 (sel.leads.get e.src.index)) := by
  refine List.filter_congr fun e he => ?_
  have hout : outranksSource l sel.source e.src = ranksAbove e c := by
    simp only [outranksSource, hs, Option.bind_some, candidateOf_eq hn hc, candidateOf_eq hn he]
  rw [leadsAt_get, sourceAt_index, hout]
  cases ranksAbove e c <;> simp

/-- R48, R49: the settled source, when there is none to keep. -/
theorem settledSource_best {l : List Candidate} {sel : Selector}
    (h : sel.reselect = true ∨ ∀ c ∈ l, sel.source ≠ some c.src) : settledSource l sel = (bestOf l).map (·.src) := by
  simp only [settledSource]
  split
  · rfl
  · next hr =>
    have hno := h.resolve_left hr
    have hb : sel.source.bind (candidateOf l) = none := by
      cases hs : sel.source with
      | none => rfl
      | some src => exact candidateOf_none.mpr fun c hc e => hno c hc (by rw [hs, e])
    simp only [hb]

/-- R48: the settled source, when the current one is a candidate. -/
theorem settledSource_current {l : List Candidate} (hn : (l.map (·.src)).Nodup) {sel : Selector} {c : Candidate} (hc : c ∈ l)
    (hr : sel.reselect = false) (hs : sel.source = some c.src) :
    settledSource l sel = some (((bestOf (overdue l sel)).getD c).src) := by
  simp only [settledSource, hr, Bool.false_eq_true, if_false, hs, Option.bind_some, candidateOf_eq hn hc]
  cases bestOf (overdue l sel) <;> rfl

theorem overdue_subset (l : List Candidate) (sel : Selector) : overdue l sel ⊆ l := List.filter_subset_self _

/-- R48, R49: a close with a candidate settles on one of them. -/
theorem settledSource_mem {l : List Candidate} (hn : (l.map (·.src)).Nodup) (hl : l ≠ []) (sel : Selector) :
    ∃ c ∈ l, settledSource l sel = some c.src := by
  have best : ∃ c ∈ l, (bestOf l).map (·.src) = some c.src := by
    cases hb : bestOf l with
    | none => exact absurd (bestOf_none.mp hb) hl
    | some b => exact ⟨b, bestOf_mem hb, rfl⟩
  by_cases hr : sel.reselect = true
  · rw [settledSource_best (.inl hr)]
    exact best
  by_cases hs : ∃ c ∈ l, sel.source = some c.src
  · obtain ⟨c, hc, hs⟩ := hs
    rw [settledSource_current hn hc (by simpa using hr) hs]
    cases hb : bestOf (overdue l sel) with
    | none => exact ⟨c, hc, rfl⟩
    | some d => exact ⟨d, overdue_subset l sel (bestOf_mem hb), rfl⟩
  · rw [settledSource_best (.inr fun c hc e => hs ⟨c, hc, e⟩)]
    exact best

theorem settledSource_nil (sel : Selector) : settledSource [] sel = none := by
  rw [settledSource_best (.inr fun c hc => absurd hc (by simp))]
  rfl

/-! ## The record after a close -/

theorem closeSelector_nil {t : Nat} {ports : Vector Port 4} {recs : List ReadingRecord} {sel : Selector}
    (h : candidatesAt t ports recs sel = []) :
    closeSelector t ports recs sel = closeEmpty t (closeSource t ports recs sel) := by
  simp only [closeSelector, h, settledSource_nil, Option.bind_none]

theorem closeSelector_some {t : Nat} {ports : Vector Port 4} {recs : List ReadingRecord} {sel : Selector} {c : Candidate}
    (hc : c ∈ candidatesAt t ports recs sel) (hs : settledSource (candidatesAt t ports recs sel) sel = some c.src) :
    closeSelector t ports recs sel = closeUsable t (candidatesAt t ports recs sel) c (closeSource t ports recs sel) := by
  simp only [closeSelector, hs, Option.bind_some, candidateOf_eq (candidatesAt_nodup t ports recs sel) hc]

/-- R41: the source, the leads and the dispositions are those settled before the sample. -/
theorem closeSelector_source (t : Nat) (ports : Vector Port 4) (recs : List ReadingRecord) (sel : Selector) :
    (closeSelector t ports recs sel).source = settledSource (candidatesAt t ports recs sel) sel ∧
      (closeSelector t ports recs sel).leads = settledLeads (candidatesAt t ports recs sel) sel ∧
      (closeSelector t ports recs sel).dispositions = dispositionsOf ports recs ∧
      (closeSelector t ports recs sel).reselect = false := by
  simp only [closeSelector]
  split
  · exact ⟨rfl, rfl, rfl, rfl⟩
  · simp only [closeEmpty]
    split <;> exact ⟨rfl, rfl, rfl, rfl⟩

theorem clampInt_eq {lo hi : Int} (h : lo ≤ hi) (v : Int) : clampInt lo hi v = max lo (min hi v) := by
  simp only [clampInt]
  split
  · omega
  · split <;> omega

theorem gradeOf_usable (limit : Nat) (c : Candidate) (o : Option Candidate) :
    gradeOf limit c o = .good ∨ gradeOf limit c o = .suspect := by
  cases o with
  | none => exact .inl rfl
  | some d => simp only [gradeOf]; split <;> simp

theorem holdStands_iff (t : Nat) (sel : Selector) : holdStands t sel = true ↔
    ∃ h a, sel.heldStage = some h ∧ sel.anchor = some a ∧ (t : Int) - a ≤ sel.holdLimit * 60 := by
  simp only [holdStands]
  split
  · next h a hh ha => simp [hh, ha]
  · next hno =>
    simp only [Bool.false_eq_true, false_iff]
    rintro ⟨h, a, hh, ha, _⟩
    exact hno h a hh ha

/-! ## O27: what a close gives -/

section

variable {t : Nat} {ports : Vector Port 4} {recs : List ReadingRecord} {sel : Selector}

/-- R48, R49: where a close settles on the best of its candidates. -/
theorem close_settles_best {b : Candidate} (hb : topOf (candidatesAt t ports recs sel) b)
    (h : sel.reselect = true ∨ ∀ c ∈ candidatesAt t ports recs sel, sel.source ≠ some c.src) :
    (closeSelector t ports recs sel).source = some b.src := by
  rw [(closeSelector_source ..).1, settledSource_best h, bestOf_top hb]
  rfl

/-- R46: a close with candidates has a best one. -/
theorem exists_top (h : candidatesAt t ports recs sel ≠ []) : ∃ b, topOf (candidatesAt t ports recs sel) b := by
  cases hb : bestOf (candidatesAt t ports recs sel) with
  | none => exact absurd (bestOf_none.mp hb) h
  | some b => exact ⟨b, topOf_best (candidatesAt_nodup ..) hb⟩

/-- R48: a close that finds its source among the candidates keeps it, or passes to the best of those that have led long
enough. -/
theorem close_keeps_or_passes {c : Candidate} (hr : sel.reselect = false) (hc : c ∈ candidatesAt t ports recs sel)
    (hs : sel.source = some c.src) :
    ((∀ d ∈ candidatesAt t ports recs sel, ranksAbove d c = true →
        saturatingSucc 255 (sel.leads.get d.src.index) < sel.returnDelay) →
      (closeSelector t ports recs sel).source = some c.src) ∧
    (∀ d, topOf ((candidatesAt t ports recs sel).filter fun e => ranksAbove e c &&
        decide (sel.returnDelay ≤ saturatingSucc 255 (sel.leads.get e.src.index))) d →
      (closeSelector t ports recs sel).source = some d.src) := by
  have hn := candidatesAt_nodup t ports recs sel
  have ho := overdue_eq hn hc hs
  rw [(closeSelector_source ..).1, settledSource_current hn hc hr hs]
  refine ⟨fun hlead => ?_, fun d hd => ?_⟩
  · have hnone : overdue (candidatesAt t ports recs sel) sel = [] := by
      rw [ho, List.filter_eq_nil_iff]
      intro d hd hboth
      simp only [Bool.and_eq_true, decide_eq_true_eq] at hboth
      have := hlead d hd hboth.1
      omega
    rw [hnone]
    rfl
  · rw [ho, bestOf_top hd]
    rfl

/-- R47: the leads after a close. -/
theorem close_leads (i : Fin 5) :
    ((closeSelector t ports recs sel).source ≠ sel.source → (closeSelector t ports recs sel).leads.get i = 0) ∧
    ((closeSelector t ports recs sel).source = sel.source →
      ((∃ c ∈ candidatesAt t ports recs sel, ∃ d ∈ candidatesAt t ports recs sel, sel.source = some c.src ∧
          d.src = sourceAt i ∧ ranksAbove d c = true) →
        (closeSelector t ports recs sel).leads.get i =
          (if sel.leads.get i < 255 then sel.leads.get i + 1 else sel.leads.get i)) ∧
      ((∀ c ∈ candidatesAt t ports recs sel, ∀ d ∈ candidatesAt t ports recs sel, sel.source = some c.src →
          d.src = sourceAt i → ranksAbove d c = false) →
        (closeSelector t ports recs sel).leads.get i = 0)) := by
  obtain ⟨hsrc, hleads, _, _⟩ := closeSelector_source t ports recs sel
  rw [hsrc, hleads]
  have hout := outranksSource_iff (candidatesAt_nodup t ports recs sel) sel.source (sourceAt i)
  refine ⟨fun hne => ?_, fun he => ⟨fun h => ?_, fun h => ?_⟩⟩
  · simp [settledLeads, if_neg hne]
  · rw [settledLeads, if_pos he, leadsAt_get, if_pos (hout.mpr h)]
    rfl
  · rw [settledLeads, if_pos he, leadsAt_get, if_neg]
    rw [hout]
    rintro ⟨c, hc, d, hd, hs, hd', habove⟩
    rw [h c hc d hd hs hd'] at habove
    exact absurd habove (by simp)

/-- R51: the candidate that a source is compared with. -/
theorem comparedAt_spec {l : List Candidate} (src : Source) :
    ((∀ d ∈ l, d.src = src) → comparedAt l src = none) ∧
      ∀ d, topOf (l.filter fun e => decide (e.src ≠ src)) d → comparedAt l src = some d := by
  have hf : (l.filter fun e => e.src != src) = l.filter fun e => decide (e.src ≠ src) :=
    List.filter_congr fun e _ => by rw [Bool.eq_iff_iff, bne_iff_ne, decide_eq_true_eq]
  refine ⟨fun h => ?_, fun d hd => ?_⟩
  · rw [comparedAt, bestOf_none, List.filter_eq_nil_iff]
    intro d hd
    simp [h d hd]
  · rw [comparedAt, hf]
    exact bestOf_top hd

end

theorem dispositionsOf_get (ports : Vector Port 4) (recs : List ReadingRecord) (p : Fin 4) :
    (dispositionsOf ports recs).get p = disposition (ports.get p) (recs.find? fun r => r.port == p) := by
  simp [dispositionsOf, recordOf, Vector.get_eq_getElem]

/-- R42: the stage that a raw reading stands for. -/
theorem convertedStage_eq (r : Port) (raw : Int) : convertedStage r raw = match r.kind with
    | .shaft | .pressure => raw + r.datum
    | .radar => r.datum - raw := by
  cases h : r.kind <;> simp only [convertedStage, h]

theorem any_ne_iff {α : Type} [BEq α] [LawfulBEq α] (last : Option α) (c : α) :
    last.any (fun o => o != c) = true ↔ ∃ c' o, some c = some c' ∧ last = some o ∧ o ≠ c' := by
  cases last with
  | none => simp
  | some o =>
    rw [Option.any_some, bne_iff_ne]
    exact ⟨fun h => ⟨c, o, rfl, rfl, h⟩, fun ⟨_, _, hc, ho, h⟩ => by
      rw [Option.some.inj hc, Option.some.inj ho]; exact h⟩

/-- Settles O27, by whether the close has a candidate. -/
theorem everyCloseGivesASample : Obligations.EveryCloseGivesASample := by
  intro t ports recs sel
  obtain ⟨hsource, _, hdisp, hreselect⟩ := closeSelector_source t ports recs sel
  have hn := candidatesAt_nodup t ports recs sel
  refine ⟨fun c => ?_, hn, ranksAbove_iff, fun p => ?_, ?_⟩
  · rw [mem_candidatesAt, observerCandidate_iff]
    refine or_congr (exists_congr fun p => ?_) Iff.rfl
    rw [portCandidate_iff]
    refine exists_congr fun rec => exists_congr fun raw => and_congr_right fun _ => and_congr_right fun _ =>
      and_congr_right fun _ => and_congr_right fun _ => ?_
    have hdeg : (rec.head == some .degraded) = decide (rec.head = some .degraded) := by
      rw [Bool.eq_iff_iff, beq_iff_eq, decide_eq_true_eq]
    rw [stageOk_iff, hdeg]
    constructor
    · rintro ⟨hok, rfl⟩
      refine ⟨hok.1, hok.2, ?_⟩
      cases hk : (ports.get p).kind <;> simp only [convertedStage, hk, HeadKind.order]
    · rintro ⟨h1, h2, hc⟩
      have hc' : c = ⟨.port p, (ports.get p).cls, decide (rec.head = some .degraded), (ports.get p).kind.order,
          convertedStage (ports.get p) raw⟩ := by
        rw [hc]
        cases hk : (ports.get p).kind <;> simp only [convertedStage, hk, HeadKind.order]
      rw [hc'] at h1 h2
      exact ⟨⟨h1, h2⟩, hc'⟩
  · rw [hdisp, dispositionsOf_get]
    cases recs.find? (fun r => r.port == p) with
    | none => rfl
    | some rec =>
      cases hraw : rec.raw <;> simp only [disposition, hraw, stageOk_iff]
  have hbest := @close_settles_best t ports recs sel
  have htop := @exists_top t ports recs sel
  have hkeep := @close_keeps_or_passes t ports recs sel
  have hleads := @close_leads t ports recs sel
  by_cases hl : candidatesAt t ports recs sel = []
  · have hnone : (closeSelector t ports recs sel).source = none := by rw [hsource, hl, settledSource_nil]
    have hstands : holdStands t (closeSource t ports recs sel) = holdStands t sel := rfl
    have hmem : ∀ c, c ∉ candidatesAt t ports recs sel := fun c => by rw [hl]; simp
    have e := closeSelector_nil hl
    rw [closeEmpty, hstands] at e
    cases hh : holdStands t sel with
    | true =>
      have hold := (holdStands_iff t sel).mp hh
      rw [hh, if_pos rfl] at e
      generalize closeSelector t ports recs sel = n at *
      subst e
      exact ⟨_, rfl, rfl, fun hq => by simp at hq, fun _ => rfl, fun hq => by simp at hq, fun _ => rfl,
        fun hq => by simp at hq, fun _ => ⟨hl, rfl, rfl, rfl, hnone⟩, fun hq => by simp at hq, rfl, rfl,
        by simp, fun _ => ⟨.inl rfl, fun _ => hold, fun _ => rfl⟩, fun hne => absurd hl hne,
        fun c hc => absurd hc (hmem c), fun _ => hnone, fun b hb => hbest hb, htop, fun hr c hc => absurd hc (hmem c), hleads⟩
    | false =>
      have hold : ¬ _ := fun h => by rw [(holdStands_iff t sel).mpr h] at hh; simp at hh
      rw [hh, if_neg (by simp)] at e
      generalize closeSelector t ports recs sel = n at *
      subst e
      exact ⟨_, rfl, rfl, fun hq => by simp at hq, fun hq => by simp at hq, fun _ => rfl, fun _ => rfl,
        fun hq => by simp at hq, fun hq => by simp at hq, fun _ => ⟨hl, rfl, rfl, rfl, rfl, rfl⟩, rfl, rfl,
        by simp, fun _ => ⟨.inr rfl, fun hq => by simp at hq, fun h => absurd h hold⟩, fun hne => absurd hl hne,
        fun c hc => absurd hc (hmem c), fun _ => hnone, fun b hb => hbest hb, htop, fun hr c hc => absurd hc (hmem c), hleads⟩
  · obtain ⟨c, hc, hs⟩ := settledSource_mem hn hl sel
    have e := closeSelector_some hc hs
    have hsrc : (closeSelector t ports recs sel).source = some c.src := hsource.trans hs
    have hgrade := gradeOf_usable (closeSource t ports recs sel).disagreementLimit c
      (comparedAt (candidatesAt t ports recs sel) c.src)
    have hno : ∀ q : Quality, q = .good ∨ q = .suspect → q ≠ .held ∧ q ≠ .lost := by
      rintro q (rfl | rfl) <;> simp
    obtain ⟨hheld, hlost⟩ := hno _ hgrade
    rw [closeUsable] at e
    generalize closeSelector t ports recs sel = n at *
    subst e
    refine ⟨_, rfl, rfl, fun _ => rfl, fun hq => absurd hq hheld, fun hq => absurd hq hlost, fun hq => ?_,
      fun _ => ⟨c, hc, rfl, rfl, rfl, hsrc, rfl⟩, fun hq => absurd hq hheld, fun hq => absurd hq hlost, ?_, rfl, ?_,
      fun hnil => absurd hnil hl, fun _ => hgrade, fun d hd hds => ?_, fun hnil => absurd hnil hl, fun b hb => hbest hb, htop,
      fun hr d hd => hkeep hr hd, hleads⟩
    · exact absurd hq (by simp [hheld, hlost])
    · rw [Bool.eq_iff_iff, beq_iff_eq, decide_eq_true_eq]
    · exact any_ne_iff sel.lastSource c.src
    · obtain rfl : d = c := by
        refine List.inj_on_of_nodup_map hn hd hc ?_
        rw [hsrc] at hds
        exact (Option.some.inj hds).symm
      obtain ⟨halone, hother⟩ := comparedAt_spec (l := candidatesAt t ports recs sel) d.src
      refine ⟨fun h => ?_, fun o ho => ?_, rfl, rfl, rfl, rfl, fun hp => ?_, fun h0 t0 inst hp hh ht hi => ?_⟩
      · simp only [halone h]
        exact ⟨rfl, rfl⟩
      · simp only [hother o ho]
        refine ⟨rfl, ?_⟩
        simp only [gradeOf]
        split
        · next hlt => exact ⟨fun _ => hlt, fun _ => rfl⟩
        · next hlt => exact ⟨fun hq => by simp at hq, fun h => absurd h hlt⟩
      · have hp' : (closeSource t ports recs sel).primed = false := hp
        simp only [riseAt, hp']
      · have hp' : (closeSource t ports recs sel).primed = true := hp
        have hh' : (closeSource t ports recs sel).hPrev = some h0 := hh
        have ht' : (closeSource t ports recs sel).tPrev = some t0 := ht
        simp only [riseAt, hp', hh', ht', filteredRise, clampInt_eq (show (-100000 : Int) ≤ 100000 by omega), hi]
        rfl

end Sys2Proof.Machine
end

section
/-! The cableway (chapter 7): what a rewriting of the carriage record does to the rest, HOLD and the contacts, homing, the
stops and the withdraw, with their statements. -/

namespace Sys2Proof.Machine

/-! ## The carriage record rewritten -/

theorem putCarriage_host (c : Carriage) (s : State) : ∃ h,
    putCarriage c s = { s with
      carriage := c, host := h
      meter := if s.carriage.state = .waitingMeter ∧ c.state ≠ .waitingMeter then s.meter.abandon else s.meter } := by
  simp only [putCarriage, addMemberIf]
  split
  · exact ⟨_, rfl⟩
  · exact ⟨s.host, rfl⟩

/-- A rewriting that does not leave WAITING_METER asks the meter nothing. -/
theorem putCarriage_stays {c : Carriage} {s : State} (h : s.carriage.state = .waitingMeter → c.state = .waitingMeter) :
    ∃ k, putCarriage c s = { s with carriage := c, host := k } := by
  obtain ⟨k, hk⟩ := putCarriage_host c s
  exact ⟨k, by rw [hk, if_neg fun ⟨h1, h2⟩ => h2 (h h1)]⟩

theorem putCarriage_quiet {c : Carriage} {s : State} (hs : c.state = s.carriage.state)
    (hc : c.stopCause = s.carriage.stopCause) (hh : c.hold = s.carriage.hold) :
    putCarriage c s = { s with carriage := c } := by
  have hn : ¬ (s.carriage.state = .waitingMeter ∧ ¬ s.carriage.state = .waitingMeter) := fun ⟨h1, h2⟩ => h2 h1
  simp only [putCarriage, hs, hc, hh, bne_self_eq_false, Bool.or_self, addMemberIf, ne_eq, hn, if_false, Bool.false_eq_true]

/-- R141: a change of state, of stop cause or of the HOLD level sets CABLEWAY. -/
theorem putCarriage_member {c : Carriage} {s : State}
    (h : s.carriage.state ≠ c.state ∨ s.carriage.stopCause ≠ c.stopCause ∨ s.carriage.hold ≠ c.hold) :
    hasMember (putCarriage c s).host.attention .cableway = true := by
  have hb : (s.carriage.state != c.state || s.carriage.stopCause != c.stopCause || s.carriage.hold != c.hold) = true := by
    simp only [Bool.or_eq_true, bne_iff_ne, ne_eq]
    tauto
  simp only [putCarriage, hb, addMemberIf, if_true, addMember, hasMember_withMember_self]

/-- R151: the meter counter is left with no exposure when the carriage leaves WAITING_METER. -/
theorem abandon_idle (m : Meter) : m.abandon.exposing = false := by
  simp only [Meter.abandon]
  split
  · rfl
  · next h => simpa using h

theorem putCarriage_exposing {c : Carriage} {s : State} (h : c.state ≠ .waitingMeter) :
    (putCarriage c s).meter.exposing = (s.meter.exposing && s.carriage.state != .waitingMeter) := by
  rw [putCarriage_meter]
  by_cases hw : s.carriage.state = .waitingMeter
  · rw [if_pos ⟨hw, h⟩, abandon_idle, hw]
    simp
  · rw [if_neg fun hc => hw hc.1]
    simp [hw]

theorem LinkOnly.written {s t : State} (h : LinkOnly s t) :
    t = { s with carriage := t.carriage, host := t.host, meter := t.meter, gaugings := t.gaugings } := by
  obtain ⟨_, _, _, _, rfl⟩ := h
  rfl

/-! ## HOLD, the contacts and homing -/

theorem callMove_hold {m : WinchCommand} {c : Carriage} (h : c.hold = true) :
    c.callMove m = { c with pendingMove := some m, awaited := none, moveLeft := none } := if_pos h

theorem callMove_free {m : WinchCommand} {c : Carriage} (h : c.hold = false) : c.callMove m = c.await m := by
  simp [Carriage.callMove, h]

@[simp] theorem callMove_state (m : WinchCommand) (c : Carriage) : (c.callMove m).state = c.state := by
  simp only [Carriage.callMove]; split <;> rfl
@[simp] theorem callMove_phase (m : WinchCommand) (c : Carriage) : (c.callMove m).phase = c.phase := by
  simp only [Carriage.callMove]; split <;> rfl
@[simp] theorem callMove_stopCause (m : WinchCommand) (c : Carriage) : (c.callMove m).stopCause = c.stopCause := by
  simp only [Carriage.callMove]; split <;> rfl
@[simp] theorem callMove_faultCode (m : WinchCommand) (c : Carriage) : (c.callMove m).faultCode = c.faultCode := by
  simp only [Carriage.callMove]; split <;> rfl
@[simp] theorem callMove_onward (m : WinchCommand) (c : Carriage) : (c.callMove m).onward = c.onward := by
  simp only [Carriage.callMove]; split <;> rfl

/-- R130: the carriage at rest goes to HOMING. -/
theorem homing_taken {s : State} (h : s.inReset = false) (hi : s.host.ignoring = false)
    (hw : s.carriage.state ≠ .waitingMeter) (hn : s.carriage.state ≠ .homing)
    (hb : cablewayHome s = (putCarriage s.carriage.enterHoming s, ⟨.ok, .nil⟩)) :
    ∃ t, exec (.cablewayHome ⟨1, 1⟩) s = .next t ∧ t.carriage.state = .homing ∧ t.carriage.phase = .none ∧
      t.carriage.stopCause = none ∧ t.carriage.faultCode = none ∧
      (s.carriage.hold = true → t.carriage.pendingMove = some .home ∧ t.carriage.awaited = none ∧
        t.carriage.wtx = s.carriage.wtx) ∧
      (s.carriage.hold = false → t.carriage.pendingMove = none ∧
        t.carriage.awaited = some ⟨s.carriage.nextSerial, .home⟩ ∧
        t.carriage.wtx = s.carriage.wtx ++ [⟨s.carriage.nextSerial, .home⟩]) ∧
      t.host.buffer = some ⟨.ok, 0x51, .nil⟩ ∧ hasMember t.host.attention .cableway = true ∧
      t = { s with carriage := t.carriage, host := t.host } := by
  have hst : s.carriage.enterHoming.state = .homing := by simp [Carriage.enterHoming]
  have hm : hasMember (putCarriage s.carriage.enterHoming s).host.attention .cableway = true :=
    putCarriage_member (.inl (by rw [hst]; exact hn))
  obtain ⟨k, hk⟩ := putCarriage_stays (c := s.carriage.enterHoming) (s := s) fun hc => absurd hc hw
  rw [hk] at hb hm
  refine ⟨_, verb_answers (n := 1) h hi (by decide) hb, hst, ?_, ?_, ?_, fun hh => ?_, fun hh => ?_, rfl, hm, rfl⟩
  · simp [Carriage.enterHoming]
  · simp [Carriage.enterHoming]
  · simp [Carriage.enterHoming]
  · simp [Carriage.enterHoming, Carriage.callMove, hh]
  · simp [Carriage.enterHoming, Carriage.callMove, hh, Carriage.await, Carriage.hand]

/-- Settles O42. -/
theorem homingStartsFromRest : Obligations.HomingStartsFromRest := by
  intro s h hi
  refine ⟨fun hs => ?_, fun hs ho => ?_, fun hs => ?_⟩
  · refine homing_taken h hi ?_ ?_ ?_ <;> rcases hs with hs | hs | ⟨hs, ho⟩ <;> simp_all [cablewayHome]
  · refine verb_answers (n := 1) h hi (by decide) (block := cablewayHome) ?_
    simp only [cablewayHome, hs]
    rw [if_neg (by simpa using ho)]
    rfl
  · refine verb_answers (n := 1) h hi (by decide) (block := cablewayHome) ?_
    cases hc : s.carriage.state <;> simp only [cablewayHome, hc] <;> simp [hc, CarriageState.working] at hs <;> rfl

/-- R134: the bed contact while the weight is let down for a sounding. -/
theorem touchBed_sounding {s : State} (hs : s.carriage.state = .sounding) (hp : s.carriage.phase = .payingOut) :
    touchBed s = { s with carriage := Carriage.await .halt { s.carriage with bedContact := true, phase := .stopping } } := by
  refine Eq.trans ?_ (putCarriage_quiet rfl rfl rfl)
  simp only [touchBed, hs, hp, if_true]

/-- Settles O44. -/
theorem holdAndContactsActOnTheCarriage : Obligations.HoldAndContactsActOnTheCarriage := by
  intro s h
  have hass : exec .holdAssertion s = .next (holdAsserts s) := exec_event (f := holdAsserts) rfl h
  have hrel : exec .holdRelease s = .next (holdReleases s) := exec_event (f := holdReleases) rfl h
  have hsurf : exec .surfaceContactAssertion s = .next (putCarriage s.carriage.touchSurface s) :=
    exec_event (f := fun s => putCarriage s.carriage.touchSurface s) rfl h
  have hbed : exec .bedContactAssertion s = .next (touchBed s) := exec_event (f := touchBed) rfl h
  refine ⟨⟨_, hass, ?_⟩, ⟨_, hrel, ?_⟩, fun hs hp => ⟨⟨_, hsurf, ?_⟩, ⟨_, hbed, ?_⟩⟩, fun hs hp => ⟨_, hbed, ?_⟩,
    fun hs => ?_, fun hs => ?_, exec_event (f := fun s => { s with carriage := s.carriage.release .surface }) rfl h,
    exec_event (f := fun s => { s with carriage := s.carriage.release .bed }) rfl h⟩
  · obtain ⟨k, hk⟩ := putCarriage_stays (c := { s.carriage with hold := true }) (s := s) id
    refine ⟨by simp [holdAsserts], by rw [holdAsserts, hk], fun hh => putCarriage_member (.inr (.inr ?_))⟩
    simp [hh]
  · have hst : s.carriage.unhold.state = s.carriage.state := by
      simp only [Carriage.unhold]; split <;> rfl
    obtain ⟨k, hk⟩ := putCarriage_stays (c := s.carriage.unhold) (s := s) fun hw => hst.trans hw
    rw [holdReleases, putCarriage_carriage]
    refine ⟨?_, ?_, hst, by rw [hk], fun m hm => ?_, fun hm => ?_⟩
    · simp only [Carriage.unhold]; split <;> rfl
    · simp only [Carriage.unhold]
      split
      · rfl
      · next hm => exact hm
    · simp only [Carriage.unhold, hm]
      exact ⟨rfl, rfl⟩
    · simp only [Carriage.unhold, hm]
  · rw [putCarriage_quiet (by simp [Carriage.touchSurface, hs, hp, Carriage.await, Carriage.hand])
      (by simp [Carriage.touchSurface, hs, hp, Carriage.await, Carriage.hand])
      (by simp [Carriage.touchSurface, hs, hp, Carriage.await, Carriage.hand])]
    simp [Carriage.touchSurface, hs, hp, Carriage.await, Carriage.hand]
  · simp [touchBed, hs, hp, stopCarriage, CarriageState.reportsStop, Carriage.stop, Carriage.hand]
  · rw [touchBed_sounding hs hp]
    exact ⟨rfl, hs, rfl, rfl, rfl, rfl⟩
  · have hc : s.carriage.touchSurface = { s.carriage with surfaceContact := true } := by
      refine if_neg fun ⟨h1, h2⟩ => ?_
      rcases hs with hs | hs
      · exact hs h1
      · exact hs h2
    rw [hsurf, hc]
    exact congrArg _ (putCarriage_quiet rfl rfl rfl)
  · have hq := putCarriage_quiet (c := { s.carriage with bedContact := true }) (s := s) rfl rfl rfl
    rw [hbed, ← hq]
    by_cases hp : s.carriage.phase = .payingOut
    · have hs' : s.carriage.state ≠ .lowering ∧ s.carriage.state ≠ .sounding := hs.resolve_right fun hn => hn hp
      cases hc : s.carriage.state <;> simp only [touchBed, hp, hc, if_true] <;> simp [hc] at hs'
    · simp only [touchBed, hp, if_false]

/-! ## The gaugings rewritten, and their members -/

/-- R175: one turn of the rewriting sets the member of its own gauging when the change calls for it. -/
theorem putGaugingAt_member (f : Gauging → Gauging) (s : State) (n q : Fin 4) :
    hasMember (putGaugingAt f s n).host.attention (.gauging q) = (hasMember s.host.attention (.gauging q) ||
      (decide (q = n) && (s.gaugings.get n).any fun g => g.marks (f g))) := by
  simp only [putGaugingAt]
  cases hg : s.gaugings.get n with
  | none => simp
  | some g =>
    simp only [putGauging, hasMember_addMemberIf, storeGauging, hg]
    by_cases hq : q = n
    · subst hq; simp
    · simp [hq]

theorem putGaugingAt_fold_marked (f : Gauging → Gauging) (l : List (Fin 4)) (s : State) : Marked s (l.foldl (putGaugingAt f) s) :=
  .foldl _ (fun s n => by
    simp only [putGaugingAt]
    split
    · exact putGauging_marked ..
    · exact .refl s) l s

theorem putGaugingAt_fold_member (f : Gauging → Gauging) (l : List (Fin 4)) (hl : l.Nodup) (s : State) {q : Fin 4}
    {g : Gauging} (hq : q ∈ l) (hg : s.gaugings.get q = some g) (hm : g.marks (f g) = true) :
    hasMember (l.foldl (putGaugingAt f) s).host.attention (.gauging q) = true := by
  induction l generalizing s with
  | nil => simp at hq
  | cons n l ih =>
    obtain ⟨hn, hl⟩ := List.nodup_cons.mp hl
    rw [List.foldl_cons]
    by_cases h : q = n
    · subst h
      refine (putGaugingAt_fold_marked f l _).keeps ?_
      rw [putGaugingAt_member, hg]
      simp [hm]
    · refine ih hl _ ((List.mem_cons.mp hq).resolve_left h) ?_
      rw [putGaugingAt_gaugings, if_neg h, hg]

/-- R175: the rewriting of every gauging sets the member of each that it changes so. -/
theorem putEachGauging_member {f : Gauging → Gauging} {s : State} {q : Fin 4} {g : Gauging}
    (hg : s.gaugings.get q = some g) (hm : g.marks (f g) = true) :
    hasMember (putEachGauging f s).host.attention (.gauging q) = true :=
  putGaugingAt_fold_member f _ (List.nodup_finRange 4) s (List.mem_finRange q) hg hm

theorem marks_of_state {g h : Gauging} (hs : g.state ≠ h.state) : g.marks h = true := by
  simp [Gauging.marks, hs]

/-! ## Withdraw -/

theorem discardVisit_same (g : Gauging) : ∃ vs, g.discardVisit = { g with verticals := vs } := by
  simp only [Gauging.discardVisit]
  (repeat' split) <;> exact ⟨_, rfl⟩

theorem afterWithdraw_running {g : Gauging} (h : g.state = .running) : g.afterWithdraw.state = .suspended ∧
    g.afterWithdraw.suspendCause = some .withdraw ∧ g.afterWithdraw.flags.withdrawn = true ∧
    g.afterWithdraw.step = .returning := by
  simp [Gauging.afterWithdraw, h, Gauging.suspended]

theorem putWatches_rise {u : WatchUnit} {s : State} (h0 : s.watches.demand = false) (h1 : u.settled.demand = true) :
    putWatches u s = gaugingWithdraw (carriageWithdraw { s with watches := u.settled }) := by
  simp [putWatches, h0, h1]

theorem carriageWithdraw_eq (s : State) :
    carriageWithdraw s = if s.carriage.state.working = true then putCarriage s.carriage.enterReturn s else s := rfl

theorem enterReturn_raises {c : Carriage} (h : c.state = .lowering ∨ c.state = .sounding ∨ c.state = .setting ∨
    c.state = .waitingMeter) : c.enterReturn = c.raise .home := by
  rcases h with h | h | h | h <;> simp only [Carriage.enterReturn, h]

theorem enterReturn_stays {c : Carriage} (h : c.state = .unhomed ∨ c.state = .homing ∨ c.state = .parked ∨
    c.state = .returning ∨ c.state = .stopped) : c.enterReturn = c := by
  rcases h with h | h | h | h | h <;> simp only [Carriage.enterReturn, h]

theorem enterReturn_onward {c : Carriage} (h : c.state = .raising ∨ (c.state = .traversing ∧ c.phase = .stopping)) :
    c.enterReturn = { c with onward := some .home } := by
  rcases h with h | ⟨h, hp⟩
  · simp only [Carriage.enterReturn, h]
  · simp only [Carriage.enterReturn, h, hp, if_true]

theorem enterReturn_halts {c : Carriage} (h : c.state = .traversing) (hp : c.phase ≠ .stopping)
    (hm : c.pendingMove = none) : c.enterReturn = { c with
      phase := .stopping, awaited := some ⟨c.nextSerial, .halt⟩, moveLeft := none
      wtx := c.wtx ++ [⟨c.nextSerial, .halt⟩], nextSerial := c.nextSerial + 1 } := by
  simp only [Carriage.enterReturn, h, hp, hm, if_false, Option.isSome_none, Bool.false_eq_true, Carriage.await,
    Carriage.hand, targetAfter]

theorem enterReturn_held {c : Carriage} (h : c.state = .traversing) (hp : c.phase ≠ .stopping)
    (hm : c.pendingMove.isSome = true) (hh : c.hold = true) : c.enterReturn = { c with
      state := .raising, phase := .none, onward := some .home, pendingMove := some (.hoistTo 0), awaited := none
      moveLeft := none } := by
  simp only [Carriage.enterReturn, h, hp, hm, if_false, if_true, Carriage.raise, Carriage.callMove, hh]

/-- R135, R137: the carriage after a withdraw rise. A carriage off the cable stays as it is either way. -/
theorem carriageWithdraw_carriage (s : State) : (carriageWithdraw s).carriage = s.carriage.enterReturn := by
  rw [carriageWithdraw_eq]
  split
  · exact putCarriage_carriage ..
  · next hw => cases hc : s.carriage.state <;> simp [hc, CarriageState.working] at hw <;> simp only [Carriage.enterReturn, hc]

/-- Settles O40. -/
theorem aWithdrawRiseTurnsTheCarriageHome : Obligations.AWithdrawRiseTurnsTheCarriageHome := by
  intro u s h0 h1
  rw [putWatches_rise h0 h1]
  have hcar : (gaugingWithdraw (carriageWithdraw { s with watches := u.settled })).carriage = s.carriage.enterReturn := by
    rw [gaugingWithdraw_carriage, carriageWithdraw_carriage]
  refine ⟨fun hs => ?_, fun hs => by rw [hcar, enterReturn_onward hs], fun hs hp => ⟨fun hm => by
    rw [hcar, enterReturn_halts hs hp hm], fun hm hh => by rw [hcar, enterReturn_held hs hp hm hh]⟩,
    fun hs => by rw [hcar, enterReturn_stays hs], fun n g hg => ?_⟩
  · have hr : s.carriage.enterReturn.state = .raising := by rw [enterReturn_raises hs]; simp [Carriage.raise]
    have hw : s.carriage.state.working = true := by rcases hs with hs | hs | hs | hs <;> rw [hs] <;> rfl
    refine ⟨hcar ▸ hr, ?_, ?_⟩
    · rw [hcar, enterReturn_raises hs]
      simp [Carriage.raise]
    · rw [gaugingWithdraw_meter, carriageWithdraw_eq, if_pos hw, putCarriage_exposing (by rw [hr]; simp)]
  · have hg' : (carriageWithdraw { s with watches := u.settled }).gaugings.get n = some g := by
      rw [carriageWithdraw_gaugings]; exact hg
    refine ⟨g.afterWithdraw, ?_, fun hn => by simp [Gauging.afterWithdraw, hn], fun hr => ?_⟩
    · rw [gaugingWithdraw, putEachGauging_get, hg']; rfl
    · obtain ⟨e1, e2, e3, e4⟩ := afterWithdraw_running hr
      exact ⟨e1, e2, e3, e4, putEachGauging_member hg' (marks_of_state (by rw [hr, e1]; simp))⟩

end Sys2Proof.Machine
end

section
/-! The stops (R138 to R140, R166): what each does to the carriage, to the meter and to every gauging. -/

namespace Sys2Proof.Machine

/-! ## Entering STOPPED -/

theorem stopCarriage_carriage (k : StopCause) (c : Carriage) (s : State) : (stopCarriage k c s).carriage = c.stop k := by
  simp only [stopCarriage]
  split <;> simp

theorem stopCarriage_meter (k : StopCause) (c : Carriage) (s : State) :
    (stopCarriage k c s).meter = (putCarriage (c.stop k) s).meter := by
  simp only [stopCarriage]
  split <;> simp

theorem stopCarriage_idle {k : StopCause} {c : Carriage} {s : State} (h : s.carriage.state = .waitingMeter) :
    (stopCarriage k c s).meter.exposing = false := by
  rw [stopCarriage_meter, putCarriage_exposing (by simp [Carriage.stop]), h]
  simp

theorem stopCarriage_linkOnly (k : StopCause) (c : Carriage) (s : State) : LinkOnly s (stopCarriage k c s) := by
  refine ⟨(stopCarriage k c s).carriage, (stopCarriage k c s).meter, (stopCarriage k c s).gaugings,
    (stopCarriage k c s).host.attention, State.eq_of_fields ?_ (CommandPort.eq_of_fields ?_ ?_ ?_ ?_ rfl ?_ ?_) ?_ ?_ ?_
      ?_ ?_ ?_ ?_ rfl rfl rfl ?_ ?_⟩ <;> simp

/-- R140, R166: a stop at work is reported, and rewrites every gauging. -/
theorem stopCarriage_gaugings {k : StopCause} {c : Carriage} {s : State} (h : s.carriage.state.working = true) (n : Fin 4) :
    (stopCarriage k c s).gaugings.get n = (s.gaugings.get n).map (Gauging.afterStop k) := by
  have hr : s.carriage.state.reportsStop = true := by
    cases hc : s.carriage.state <;> simp [hc, CarriageState.working] at h <;> rfl
  rw [stopCarriage, if_pos hr, takeStopped, putEachGauging_get, putCarriage_gaugings]

theorem stopCarriage_suspends {k : StopCause} {c : Carriage} {s : State} {n : Fin 4} {g : Gauging}
    (h : s.carriage.state.working = true) (hg : s.gaugings.get n = some g) (hs : g.state = .running) :
    hasMember (stopCarriage k c s).host.attention (.gauging n) = true := by
  have hr : s.carriage.state.reportsStop = true := by
    cases hc : s.carriage.state <;> simp [hc, CarriageState.working] at h <;> rfl
  rw [stopCarriage, if_pos hr, takeStopped]
  refine putEachGauging_member (g := g) (by rw [putCarriage_gaugings, hg]) (marks_of_state ?_)
  simp [Gauging.afterStop, hs, Gauging.suspended]

theorem stopCarriage_marks {k : StopCause} {c : Carriage} {s : State} (h : s.carriage.state ≠ .stopped) :
    hasMember (stopCarriage k c s).host.attention .cableway = true := by
  have hm : hasMember (putCarriage (c.stop k) s).host.attention .cableway = true := putCarriage_member (.inl h)
  simp only [stopCarriage]
  split
  · exact (takeStopped_marked k _).keeps hm
  · exact hm

/-! ## A gauging after a stop -/

theorem discardVisit_get (g : Gauging) (i : Nat) {v : Vertical} (hv : g.verticals[i]? = some v) :
    (g.current ≠ some i ∨ v.status ≠ .todo → g.discardVisit.verticals[i]? = some v) ∧
    (g.current = some i → v.status = .todo → g.discardVisit.verticals[i]? = some { v with
      depth := none, points := [], mean := none, flow := none, method := v.planned, nearBed := false
      downgraded := false, still := false, saturated := false }) := by
  simp only [Gauging.discardVisit]
  cases hc : g.current with
  | none => exact ⟨fun _ => hv, fun h => by simp at h⟩
  | some j =>
    by_cases hj : j = i
    · subst hj
      have hlt : j < g.verticals.length := (List.getElem?_eq_some_iff.mp hv).1
      have hget : (g.withVertical j v.discarded).verticals[j]? = some v.discarded := by
        simp [Gauging.withVertical, hlt]
      simp only [hv, hget, Option.some.injEq]
      refine ⟨fun h => ?_, fun _ h => by simp [Vertical.discarded, h]⟩
      have hn : v.status ≠ .todo := h.resolve_left fun hne => hne rfl
      simp [Vertical.discarded, hn]
    · refine ⟨fun _ => ?_, fun h => absurd (Option.some.inj h) hj⟩
      cases hw : g.verticals[j]? with
      | none => simpa only [hw] using hv
      | some w => simp only [hw, Gauging.withVertical, List.getElem?_set_ne hj, hv]

/-- R166: what a stop does to each gauging, by its state. `flags` are the flags with WINCH_FAULT as the cause sets it. -/
theorem afterStop_spec {k : StopCause} {g : Gauging} {flags : GaugingFlags}
    (hf : flags = { g.flags with winchFault := g.flags.winchFault || k == .winchFault || k == .timeout }) :
    (g.state = .running → g.afterStop k = { g with
        state := .suspended, suspendCause := some .carriageStopped, stopCause := some k, step := .none
        flags := flags, verticals := g.discardVisit.verticals }) ∧
    (g.state = .suspended → g.afterStop k = { g with stopCause := some k, flags := flags, step := .none }) ∧
    (g.state ≠ .running → g.state ≠ .suspended →
      g.afterStop k = { g with step := if g.step = .returning then .none else g.step }) := by
  subst hf
  obtain ⟨vs, hvs⟩ := discardVisit_same g
  refine ⟨fun h => ?_, fun h => ?_, fun h1 h2 => ?_⟩
  · simp only [Gauging.afterStop, h, Gauging.suspended, hvs]
  · simp only [Gauging.afterStop, h]
  · cases h : g.state <;> simp only [Gauging.afterStop, h] <;> simp_all

/-! ## The three stops -/

theorem exec_winchFault {s : State} {b : Byte} (h : s.inReset = false) (hr : s.carriage.rx.clean (WinchReport.fault b).chars) :
    ∃ r, exec (.winchFault b) s = .next (winchFaults b (withWrx r s)) := by
  refine ⟨{ s.carriage.rx with holding := none, taken := [], overrun := false }, ?_⟩
  rw [exec_event (f := winchSends (WinchReport.fault b).message) rfl h, winchSends_report _ _ hr, messageComes_report]
  rfl

theorem exec_moveTimer {s : State} (h : s.inReset = false) (hm : s.carriage.moveLeft.isSome = true) :
    exec .moveTimerExpiry s =
      .next (stopCarriage .timeout (if s.carriage.awaitsHalt then s.carriage else s.carriage.hand .halt) s) := by
  rw [exec_event (f := moveTimesOut) rfl h, moveTimesOut, if_pos hm]

theorem exec_halt {s : State} (h : s.inReset = false) (hi : s.host.ignoring = false) :
    exec (.cablewayHalt ⟨1, 1⟩) s = .next (respond 1 ⟨.ok, 0x52, .nil⟩
      (stopCarriage .halted (if s.carriage.sendsHalt then s.carriage.hand .halt else s.carriage) s)) :=
  verb_answers (n := 1) (block := cablewayHalt) h hi (by decide) rfl

/-- R166: a halt leaves the flags as they are. -/
theorem halted_flags {g : Gauging} : g.flags = { g.flags with
    winchFault := g.flags.winchFault || StopCause.halted == .winchFault || StopCause.halted == .timeout } := by
  have e : (g.flags.winchFault || StopCause.halted == .winchFault || StopCause.halted == .timeout) = g.flags.winchFault := by
    cases g.flags.winchFault <;> rfl
  rw [e]

theorem LinkOnly.responds {s t : State} (h : LinkOnly s t) (n : Nat) (r : Response) : respond n r t =
    { s with carriage := t.carriage, host := (respond n r t).host, meter := t.meter, gaugings := t.gaugings } := by
  obtain ⟨_, _, _, _, rfl⟩ := h
  rfl

/-- R138: a halt sends HALT outside STOPPED, and in it while no HALT is outstanding. -/
theorem sendsHalt_of {c : Carriage} (h : c.state ≠ .stopped ∨ ∀ o ∈ c.outstanding, o.command ≠ .halt) :
    c.sendsHalt = true := by
  rcases h with h | h
  · simp [Carriage.sendsHalt, h]
  · simpa [Carriage.sendsHalt] using Or.inr h

/-- What R166 says of a stop's effect on the gauging in slot `n`. -/
structure GaugingStopped (cause : StopCause) (flags : GaugingFlags) (n : Fin 4) (g : Gauging) (t : State) (h : Gauging) :
    Prop where
  held : t.gaugings.get n = some h
  running : g.state = .running → hasMember t.host.attention (.gauging n) = true ∧
    h = { g with
      state := .suspended, suspendCause := some .carriageStopped, stopCause := some cause, step := .none
      flags := flags, verticals := g.discardVisit.verticals }
  suspended : g.state = .suspended → h = { g with stopCause := some cause, flags := flags, step := .none }
  others : g.state ≠ .running → g.state ≠ .suspended →
    h = { g with step := if g.step = .returning then .none else g.step }

theorem stopCarriage_gaugingStopped {k : StopCause} {c : Carriage} {s : State} {n : Fin 4} {g : Gauging}
    {flags : GaugingFlags} (hw : s.carriage.state.working = true) (hg : s.gaugings.get n = some g)
    (hf : flags = { g.flags with winchFault := g.flags.winchFault || k == .winchFault || k == .timeout }) :
    GaugingStopped k flags n g (stopCarriage k c s) (g.afterStop k) := by
  obtain ⟨hr, hs, ho⟩ := afterStop_spec hf
  exact ⟨by rw [stopCarriage_gaugings hw, hg]; rfl, fun h => ⟨stopCarriage_suspends hw hg h, hr h⟩, hs, ho⟩

/-- Each of the three stops ends in a state that holds the stopped gauging. -/
theorem stops_gaugingStopped {s : State} {c : Instr} {cause : StopCause} {flags : GaugingFlags} {n : Fin 4} {g : Gauging}
    (hin : s.inReset = false)
    (hc : (c = .cablewayHalt ⟨1, 1⟩ ∧ s.host.ignoring = false ∧ cause = .halted ∧ flags = g.flags) ∨
      (∃ b, c = .winchFault b ∧ s.carriage.rx.clean (WinchReport.fault b).chars ∧ cause = .winchFault ∧
        flags = { g.flags with winchFault := true }) ∨
      (c = .moveTimerExpiry ∧ s.carriage.moveLeft.isSome = true ∧ cause = .timeout ∧
        flags = { g.flags with winchFault := true }))
    (hw : s.carriage.state.working = true) (hg : s.gaugings.get n = some g) :
    ∃ t, exec c s = .next t ∧ GaugingStopped cause flags n g t (g.afterStop cause) := by
  rcases hc with ⟨rfl, hi, rfl, rfl⟩ | ⟨b, rfl, hr, rfl, rfl⟩ | ⟨rfl, hm, rfl, rfl⟩
  · refine ⟨_, exec_halt hin hi, ?_⟩
    obtain ⟨h1, h2, h3, h4⟩ := stopCarriage_gaugingStopped (k := .halted) (flags := g.flags)
      (c := if s.carriage.sendsHalt then s.carriage.hand .halt else s.carriage) hw hg halted_flags
    exact ⟨h1, h2, h3, h4⟩
  · obtain ⟨r, hx⟩ := exec_winchFault hin hr
    exact ⟨_, hx, stopCarriage_gaugingStopped hw hg (by simp)⟩
  · exact ⟨_, exec_moveTimer hin hm, stopCarriage_gaugingStopped hw hg (by simp)⟩

/-- Settles O43. -/
theorem everyStopIsStopped : Obligations.EveryStopIsStopped := by
  intro s hin
  refine ⟨fun hi => ⟨_, exec_halt hin hi, ?_⟩, fun cause hr => ?_, fun n hn => ?_, ?_⟩
  · have hc : (stopCarriage .halted (if s.carriage.sendsHalt then s.carriage.hand .halt else s.carriage) s).carriage =
        (if s.carriage.sendsHalt then s.carriage.hand .halt else s.carriage).stop .halted := stopCarriage_carriage ..
    simp only [respond_carriage, hc, respond_meter]
    refine ⟨rfl, rfl, rfl, rfl, rfl, rfl, rfl, ?_, ?_, fun hs => ?_, rfl, stopCarriage_idle, ?_⟩
    · cases s.carriage.sendsHalt <;> rfl
    · cases s.carriage.sendsHalt <;> rfl
    · rw [if_pos (sendsHalt_of hs)]
      rfl
    · rw [← hc]
      exact (stopCarriage_linkOnly ..).responds 1 _
  · obtain ⟨r, hx⟩ := exec_winchFault hin hr
    have hc : (winchFaults cause (withWrx r s)).carriage =
        Carriage.stop .winchFault { s.carriage with rx := r, faultCode := some cause, outstanding := [] } :=
      stopCarriage_carriage ..
    refine ⟨_, hx, ?_⟩
    simp only [hc]
    refine ⟨rfl, rfl, rfl, rfl, rfl, rfl, rfl, rfl, rfl, fun hs => stopCarriage_marks (s := withWrx r s) hs,
      fun hs => stopCarriage_idle (s := withWrx r s) hs, ?_⟩
    rw [← hc]
    exact ((withWrx_effect r s).trans (winchFaults_effect cause (withWrx r s))).written
  · have hm : s.carriage.moveLeft.isSome = true := by rw [hn]; rfl
    have hc : (stopCarriage .timeout (if s.carriage.awaitsHalt then s.carriage else s.carriage.hand .halt) s).carriage =
        (if s.carriage.awaitsHalt then s.carriage else s.carriage.hand .halt).stop .timeout := stopCarriage_carriage ..
    refine ⟨_, exec_moveTimer hin hm, ?_⟩
    simp only [hc]
    refine ⟨rfl, rfl, rfl, rfl, rfl, rfl, stopCarriage_idle, fun o ho hne => ?_, fun o ho he => ?_, ?_⟩
    · have hh : s.carriage.awaitsHalt = false := by simp [Carriage.awaitsHalt, ho, hne]
      rw [hh]
      rfl
    · have hh : s.carriage.awaitsHalt = true := by simp [Carriage.awaitsHalt, ho, he]
      rw [hh]
      rfl
    · rw [← hc]
      exact (stopCarriage_linkOnly ..).written
  · intro c cause flags n g hc hw hg
    obtain ⟨t, hx, h1, h2, h3, h4⟩ := stops_gaugingStopped hin hc hw hg
    refine ⟨t, _, hx, h1, fun hr => ?_, h3, h4⟩
    obtain ⟨hm, he⟩ := h2 hr
    have hvs : (g.afterStop cause).verticals = g.discardVisit.verticals := by rw [he]
    refine ⟨hm, by rw [hvs]; exact he, fun i v hv => ?_⟩
    rw [hvs]
    exact discardVisit_get g i hv

end Sys2Proof.Machine
end

section
/-! The gauging records (R153 to R156, R169 to R172, R174): planning, reading and retiring, the completion, and the
adoption of the indicated shift. -/

namespace Sys2Proof.Machine

/-! ## Planning, reading and retiring -/

theorem gaugingPlan_creates {slot di me : Byte} {offset unsteady : Half} {n : Fin 4} {d : GaugingDirection} {m : Method}
    {s : State} (hk : keyOf 4 slot = some n) (hd : gaugingDirectionOf di = some d) (hm : methodOf me = some m)
    (ho : offset.toNat ≤ 2000) (hg : s.gaugings.get n = none) :
    gaugingPlan slot di me offset unsteady s =
      (storeGauging n (some (Gauging.created d m offset.toNat (clampNat 1 1000 unsteady.toNat))) s,
        ⟨.ok, .gaugingHeader (Gauging.created d m offset.toNat (clampNat 1 1000 unsteady.toNat))⟩) := by
  simp [gaugingPlan, hk, hd, hm, Nat.not_lt.mpr ho, hg]

theorem gaugingVerticals_appends {slot : Byte} {l : List VerticalField} {n : Fin 4} {g : Gauging} {vs : List Vertical}
    {s : State} (hk : keyOf 4 slot = some n) (h1 : 1 ≤ l.length) (h4 : l.length ≤ 4) (hg : s.gaugings.get n = some g)
    (hp : g.state = .planned) (hv : verticalsOf g.method (g.verticals.getLast?.map (·.distance)) 0 l = .ok vs)
    (hf : g.verticals.length + vs.length ≤ 40) :
    gaugingVerticals slot l s =
      (storeGauging n (some { g with verticals := g.verticals ++ vs }) s,
        ⟨.ok, .verticalsTaken (g.verticals ++ vs).length (40 - (g.verticals ++ vs).length)⟩) := by
  have hlen : ¬ (l.length = 0 ∨ 4 < l.length) := by omega
  have hfit : ¬ maxVerticals < g.verticals.length + vs.length := Nat.not_lt.mpr hf
  simp only [gaugingVerticals, hk, hlen, hg, hp, hv, hfit, if_false, ne_eq, not_true]
  rfl

theorem gaugingRetire_installed {slot : Byte} {n : Fin 4} {g : Gauging} {s : State} (hk : keyOf 4 slot = some n)
    (hg : s.gaugings.get n = some g) :
    gaugingRetire slot s = if g.state.isOpen then refuse .wrongState .nil s else (storeGauging n none s, ⟨.ok, .nil⟩) := by
  simp only [gaugingRetire, hk, hg]

/-- Settles O50. -/
theorem gaugingsArePlannedReadAndRetired : Obligations.GaugingsArePlannedReadAndRetired := by
  intro slot n s h hi hslot
  have hk := keyOf_eq_some hslot
  refine ⟨fun di me offset unsteady d m hd hm ho hg => ?_, fun l g vs h1 h4 hg hp hv hf => ?_, fun first g hf hg => ?_,
    fun g hg => ⟨fun hs => ?_, fun h1 h2 => ?_⟩, fun hg => ?_⟩
  · exact ⟨_, verb_answers (n := 8) h hi (by decide) (gaugingPlan_creates hk hd hm ho hg), rfl, rfl, rfl, rfl,
      clampNat_eq 1 1000 _ (by omega), rfl, rfl, rfl⟩
  · exact verb_answers (n := 3 + 12 * l.length) h hi (by omega) (gaugingVerticals_appends hk h1 h4 hg hp hv hf)
  · refine verb_answers (n := 3) h hi (by decide) (block := gaugingRead slot first) ?_
    simp [gaugingRead, hk, hg, Nat.not_lt.mpr hf]
  · refine verb_answers (n := 2) h hi (by decide) (block := gaugingRetire slot) ?_
    rw [gaugingRetire_installed hk hg, if_pos ((isOpen_iff _).mpr hs)]
    rfl
  · refine verb_answers (n := 2) h hi (by decide) (block := gaugingRetire slot) ?_
    rw [gaugingRetire_installed hk hg, if_neg fun ho => ((isOpen_iff _).mp ho).elim h1 h2]
    rfl
  · refine verb_answers (n := 2) h hi (by decide) (block := gaugingRetire slot) ?_
    simp only [gaugingRetire, hk, hg]
    rfl

/-! ## Completion -/

theorem edgesSettled_get (vs : List Vertical) (i : Nat) {v : Vertical} (hv : vs[i]? = some v) :
    (edgesSettled vs)[i]? = some (if v.edge then v.settledEdge vs[adjacentIndex i]? else v) := by
  simp [edgesSettled, hv]

@[simp] theorem length_edgesSettled (vs : List Vertical) : (edgesSettled vs).length = vs.length := by simp [edgesSettled]

/-- R169: an edge takes its mean and its flow from the vertical beside it, and another vertical stays as it is. -/
theorem edgesSettled_spec (vs : List Vertical) (i : Nat) {v : Vertical} (hv : vs[i]? = some v) :
    (v.edge = false → (edgesSettled vs)[i]? = some v) ∧
    (v.edge = true → ∀ a mean, vs[if i = 0 then 1 else i - 1]? = some a →
      mean = (if a.status = .skipped then 0 else halfUp (v.edgeFactor * a.mean.getD 0) 1000) →
      (edgesSettled vs)[i]? = some { v with mean := some mean, flow := some (mean * v.depth.getD 0 * v.span) }) := by
  rw [edgesSettled_get vs i hv]
  refine ⟨fun he => by simp [he], ?_⟩
  rintro he a mean ha rfl
  have ha' : vs[adjacentIndex i]? = some a := ha
  rw [if_pos he, ha']
  rfl

/-- R170: with no rating in force or no mean height there is no comparison. -/
theorem resultsOf_bare {store : RatingStore} {q mid : Nat} {z : Option Int} (h : store.inForce = none ∨ z = none) :
    resultsOf store q mid z = ({ GaugingResults.absent with
      measured := some q, meanHeight := z, slot := store.inForce
      generation := store.inForce.bind fun k => (store.slots.get k).generation }, false) := by
  cases hk : store.inForce with
  | none => simp only [resultsOf, hk]; rfl
  | some k =>
    have hz : z = none := h.resolve_left (by simp [hk])
    simp only [resultsOf, hk, hz]
    rfl

theorem resultsOf_compared {store : RatingStore} {q mid : Nat} {z : Int} {k : Fin 3} (hk : store.inForce = some k) :
    resultsOf store q mid (some z) = comparison q z mid k (store.slots.get k) := by
  simp only [resultsOf, hk]

/-- R170: the figures that every completion gives, whatever the store holds. -/
theorem resultsOf_figures (store : RatingStore) (q mid : Nat) (z : Option Int) :
    (resultsOf store q mid z).1.measured = some q ∧ (resultsOf store q mid z).1.meanHeight = z ∧
    (resultsOf store q mid z).1.slot = store.inForce ∧
    (resultsOf store q mid z).1.generation = store.inForce.bind fun k => (store.slots.get k).generation := by
  by_cases h : store.inForce = none ∨ z = none
  · rw [resultsOf_bare h]
    exact ⟨rfl, rfl, rfl, rfl⟩
  · obtain ⟨h1, h2⟩ := not_or.mp h
    obtain ⟨k, hk⟩ := Option.ne_none_iff_exists'.mp h1
    obtain ⟨y, rfl⟩ := Option.ne_none_iff_exists'.mp h2
    rw [resultsOf_compared hk, hk]
    exact ⟨rfl, rfl, rfl, rfl⟩

/-! ## Adoption -/

/-- R171: the checks that a gauging to be adopted passes. -/
theorem gaugingAdopt_taken {slot : Byte} {shift : Option Half} {n : Fin 4} {g : Gauging} {k : Fin 3} {v : Int} {gen : Nat}
    {s : State} (hk : keyOf 4 slot = some n) (hg : s.gaugings.get n = some g) (hc : g.state = .complete)
    (hv : g.results.indicated = some v) (hs : g.results.slot = some k) (hgen : g.results.generation = some gen)
    (hx : (shift.any fun x => !shiftOk x.toInt) = false) (ha : g.adopted = false)
    (hr : (s.ratings.slots.get k).state = .inForce) (hrg : (s.ratings.slots.get k).generation = some gen) :
    gaugingAdopt slot shift s = adoptInto n g k ((shift.map BitVec.toInt).getD v) s := by
  have hh : storeHolds s.ratings k (some gen) = true := by simp [storeHolds, hr, hrg]
  simp only [gaugingAdopt, hk, hx, hg, hc, ha, hv, hs, hgen, hh, if_true, if_false, Bool.false_eq_true, ne_eq, not_true,
    or_self]

theorem adoptInto_writes {n : Fin 4} {g : Gauging} {k : Fin 3} {v : Int} {s : State} (hv : shiftOk v = true)
    (hfit : (s.ratings.slots.get k).shifts.length < 12) : ∃ body,
    adoptInto n g k v s = (addMember (.gauging n) (putGauging n
        { g with adopted := true, adoptedShift := some ⟨g.midpoint, v⟩ }
        (putSlot k { s.ratings.slots.get k with
          shifts := (shiftPlaced (s.ratings.slots.get k).shifts ⟨g.midpoint, v⟩).1 } s)), ⟨.ok, body⟩) := by
  obtain ⟨body, hw⟩ := writeShift_takes (x := ⟨g.midpoint, v⟩) (s := s) (k := k) hv (.inl hfit)
  exact ⟨body, by simp only [adoptInto, hw, if_true]⟩

/-- R171: what an adoption writes, whatever the length of its frame. -/
theorem adoption_answers {m : Nat} {slot : Byte} {shift : Option Half} {n : Fin 4} {g : Gauging} {k : Fin 3} {v : Int}
    {gen : Nat} {s : State} (h : s.inReset = false) (hi : s.host.ignoring = false) (hm : m < 256)
    (hk : keyOf 4 slot = some n) (hg : s.gaugings.get n = some g) (hc : g.state = .complete)
    (hv : g.results.indicated = some v) (hs : g.results.slot = some k) (hgen : g.results.generation = some gen)
    (hx : (shift.any fun x => !shiftOk x.toInt) = false) (hw : shiftOk ((shift.map BitVec.toInt).getD v) = true) :
    (g.adopted = true → transacted (takeVerb ⟨BitVec.ofNat 8 m, m⟩ m 0x66 (gaugingAdopt slot shift)) s =
      .next (respond m ⟨.wrongState, 0x66, .nil⟩ s)) ∧
    (g.adopted = false → (s.ratings.slots.get k).state = .inForce → (s.ratings.slots.get k).generation = some gen →
      (s.ratings.slots.get k).shifts.length < 12 → ∃ t x l body,
        transacted (takeVerb ⟨BitVec.ofNat 8 m, m⟩ m 0x66 (gaugingAdopt slot shift)) s = .next t ∧
        x = Shift.mk g.midpoint ((shift.map BitVec.toInt).getD v) ∧
        t.gaugings = putAt s.gaugings n (some { g with adopted := true, adoptedShift := some x }) ∧
        t.ratings = { s.ratings with slots := putAt s.ratings.slots k { s.ratings.slots.get k with shifts := l } } ∧
        (∀ y, y ∈ l ↔ y = x ∨ (y ∈ (s.ratings.slots.get k).shifts ∧ y.time ≠ x.time)) ∧
        t.host.buffer = some ⟨.ok, 0x66, body⟩ ∧ hasMember t.host.attention (.gauging n) = true ∧
        t = { s with gaugings := t.gaugings, ratings := t.ratings, host := t.host }) := by
  refine ⟨fun ha => ?_, fun ha hr hrg hfit => ?_⟩
  · refine verb_answers h hi hm ?_
    simp only [gaugingAdopt, hk, hx, hg, ha, or_true, if_true, Bool.false_eq_true, if_false]
    rfl
  · obtain ⟨body, hb⟩ := adoptInto_writes (n := n) (g := g) hw hfit
    refine ⟨_, _, _, body,
      verb_answers h hi hm ((gaugingAdopt_taken hk hg hc hv hs hgen hx ha hr hrg).trans hb), rfl, ?_, ?_,
      mem_shiftPlaced _ _, rfl, ?_, ?_⟩
    · simp [putSlot]
    · simp [putSlot]
    · simp
    · obtain ⟨r, ga, att, he⟩ := gaugingAdopt_effect slot shift s
      rw [gaugingAdopt_taken hk hg hc hv hs hgen hx ha hr hrg, hb] at he
      simp only at he
      rw [he]
      rfl

/-- Settles O52. -/
theorem aGaugingIsAdopted : Obligations.AGaugingIsAdopted := by
  refine ⟨fun g now store => ?_, fun slot n g k v gen shift s h hi hslot hg hc hv hs hgen hsh hno f hf => ?_⟩
  · obtain ⟨hq, hz, hsl, hge⟩ := resultsOf_figures store (measuredDischarge (edgesSettled g.verticals))
      (midpointTime (g.startTime.getD 0) now) g.meanHeight
    refine ⟨_, measuredDischarge (edgesSettled g.verticals), _, _, rfl, rfl, rfl, rfl,
      fun i v hv => edgesSettled_spec _ i hv, length_edgesSettled _, Nat.min_comm _ _, hq, rfl, hz, rfl, rfl, hsl, hge, fun hbare => ?_, ?_⟩
    · have hb := resultsOf_bare (q := measuredDischarge (edgesSettled g.verticals))
        (mid := midpointTime (g.startTime.getD 0) now) (z := g.meanHeight) hbare
      simp only [Gauging.completed, hb, Bool.or_false]
      exact ⟨rfl, rfl, rfl, trivial⟩
    · rintro k z r hk hz' rfl
      have hz'' : g.meanHeight = some z := hz'
      simp only [Gauging.completed, hz'', resultsOf_compared hk]
      refine ⟨rfl, rfl, rfl, rfl, ?_⟩
      rw [Bool.or_assoc]
      rfl
  · have hk := keyOf_eq_some hslot
    have hx : (shift.any fun x => !shiftOk x.toInt) = false := by
      cases hsh' : shift with
      | none => rfl
      | some x => simp [(shiftOk_iff _).mpr (hsh x hsh')]
    have hw : shiftOk ((shift.map BitVec.toInt).getD v) = true := by
      rw [shiftOk_iff]
      cases hsh' : shift with
      | none => exact hno hsh'
      | some x => exact hsh x hsh'
    cases shift with
    | none =>
      subst hf
      exact adoption_answers (m := 2) h hi (by decide) hk hg hc hv hs hgen hx hw
    | some x =>
      subst hf
      exact adoption_answers (m := 4) h hi (by decide) hk hg hc hv hs hgen hx hw

end Sys2Proof.Machine
end

section
/-! The messages of the winch (R123 to R127, R189): their checks, what their characters say, and what takes them. -/

namespace Sys2Proof.Machine

/-! ## The checks of a message -/

theorem winchLength_eq (c : Byte) : winchLength c =
    if c = 0x41 then some 7 else if c = 0x42 then some 2 else if c = 0x43 then some 3 else none := by
  by_cases h1 : c = 0x41
  · subst h1; rfl
  by_cases h2 : c = 0x42
  · subst h2; rfl
  by_cases h3 : c = 0x43
  · subst h3; rfl
  rw [if_neg h1, if_neg h2, if_neg h3]
  simp only [winchLength]
  split
  · next h => exact absurd (BitVec.eq_of_toNat_eq h) h1
  · next h => exact absurd (BitVec.eq_of_toNat_eq h) h2
  · next h => exact absurd (BitVec.eq_of_toNat_eq h) h3
  · rfl

/-- R124: with the line's own checks passed, the type, the sum and the range are left. -/
theorem linkErrorOf_content {m : WinchMessage} (hf : m.framing = false) (ho : m.overrun = false) (hg : m.gap = false) :
    linkErrorOf m = if m.chars.head?.all (fun b => (winchLength b).isNone) then some .type
      else if sumOf m.chars ≠ 0 then some .sum
      else if (reportOf m.chars).any WinchReport.outOfRange then some .range else none := by
  simp only [linkErrorOf, hf, ho, hg, Bool.false_eq_true, if_false]

theorem linkErrorOf_typed {m : WinchMessage} {c : Byte} {rest : List Byte} (hf : m.framing = false)
    (ho : m.overrun = false) (hg : m.gap = false) (hm : m.chars = c :: rest) (hc : c = 0x41 ∨ c = 0x42 ∨ c = 0x43) :
    linkErrorOf m = if sumOf m.chars ≠ 0 then some .sum
      else if (reportOf m.chars).any WinchReport.outOfRange then some .range else none := by
  have ht : (m.chars.head?.all fun b => (winchLength b).isNone) = false := by
    rw [hm]
    rcases hc with rfl | rfl | rfl <;> rfl
  rw [linkErrorOf_content hf ho hg, ht, if_neg (by simp)]

theorem reportOf_position (d0 d1 d2 h0 h1 x : Byte) :
    reportOf [0x41, d0, d1, d2, h0, h1, x] = some (.position (d2 ++ d1 ++ d0) (h1 ++ h0)) := rfl

/-- R124: the first check that a message fails, in the order of the checks. -/
theorem linkErrorOf_order (m : WinchMessage) :
    (m.framing = true → linkErrorOf m = some .framing) ∧
    (m.framing = false → m.overrun = true → linkErrorOf m = some .overrun) ∧
    (m.framing = false → m.overrun = false → m.gap = true → linkErrorOf m = some .gap) ∧
    (m.framing = false → m.overrun = false → m.gap = false →
      (∀ c rest, m.chars = c :: rest →
        (c ≠ 0x41 → c ≠ 0x42 → c ≠ 0x43 → linkErrorOf m = some .type) ∧
        (c = 0x41 ∨ c = 0x42 ∨ c = 0x43 → m.chars.foldl (· + ·) 0 ≠ 0 → linkErrorOf m = some .sum) ∧
        (c = 0x42 ∨ c = 0x43 → m.chars.foldl (· + ·) 0 = 0 → linkErrorOf m = none)) ∧
      (∀ d0 d1 d2 h0 h1 x : Byte, m.chars = [0x41, d0, d1, d2, h0, h1, x] → m.chars.foldl (· + ·) 0 = 0 →
        linkErrorOf m = if 300000 < (d2 ++ d1 ++ d0).toNat ∨ 30000 < (h1 ++ h0).toNat then some .range else none)) := by
  refine ⟨fun hf => ?_, fun hf ho => ?_, fun hf ho hg => ?_, fun hf ho hg => ⟨fun c rest hm =>
    ⟨fun h1 h2 h3 => ?_, fun hc hs => ?_, fun hc hs => ?_⟩, fun d0 d1 d2 h0 h1 x hm hs => ?_⟩⟩
  · simp only [linkErrorOf, hf, if_true]
  · simp only [linkErrorOf, hf, ho, if_true, Bool.false_eq_true, if_false]
  · simp only [linkErrorOf, hf, ho, hg, if_true, Bool.false_eq_true, if_false]
  · have ht : (m.chars.head?.all fun b => (winchLength b).isNone) = true := by
      rw [hm, List.head?_cons, Option.all_some, winchLength_eq, if_neg h1, if_neg h2, if_neg h3]
      rfl
    rw [linkErrorOf_content hf ho hg, ht, if_pos rfl]
  · exact (linkErrorOf_typed hf ho hg hm hc).trans (if_pos hs)
  · have hr : (reportOf m.chars).any WinchReport.outOfRange = false := by
      rw [hm]
      rcases hc with rfl | rfl <;> rfl
    rw [linkErrorOf_typed hf ho hg hm (.inr hc), hr, if_neg (not_not.mpr (show sumOf m.chars = 0 from hs))]
    rfl
  · rw [linkErrorOf_typed hf ho hg hm (.inl rfl), if_neg (not_not.mpr (show sumOf m.chars = 0 from hs)), hm, reportOf_position]
    simp only [Option.any_some, WinchReport.outOfRange, Bool.or_eq_true, decide_eq_true_eq]
    rfl

theorem messageComes_bad {m : WinchMessage} {e : LinkError} (h : linkErrorOf m = some e) (s : State) :
    messageComes m s = discardMessage e s := by
  simp only [messageComes, h]

theorem messageComes_good {m : WinchMessage} {r : WinchReport} (h : linkErrorOf m = none) (hr : reportOf m.chars = some r)
    (s : State) : messageComes m s = reportComes r s := by
  simp only [messageComes, h, hr]

/-! ## Messages sent as a whole -/

theorem any_framing_map (c : Byte) (l : List Byte) (f : Bool) :
    ((c :: l).map fun b => (⟨b, false, f⟩ : RxChar)).any (·.framing) = f := by
  cases f <;> simp

/-- R124: a message on an assembler that has nothing is checked as it was sent. -/
theorem winchSends_fresh {m : WinchMessage} {s : State} {y : Byte} {rest : List Byte} (ha : s.carriage.rx.assembled = [])
    (ho : s.carriage.rx.overrun = false) (hm : m.chars = y :: rest)
    (h0 : m.gap = false → m.chars.length = (winchLength y).getD 1)
    (h1 : m.gap = true → m.chars.length < (winchLength y).getD 1) : winchSends m s = messageComes m s := by
  obtain ⟨chars, framing, overrun, gap⟩ := m
  simp only at hm h0 h1
  subst hm
  have hhold : s.carriage.rx.holding = none := by
    simp only [Receiver.assembled, List.append_eq_nil_iff, Option.toList_eq_nil_iff] at ha
    exact ha.2
  have htaken : s.carriage.rx.taken = [] := by
    simp only [Receiver.assembled, List.append_eq_nil_iff] at ha
    exact ha.1
  let l : List RxChar := (y :: rest).map fun b => ⟨b, false, framing⟩
  let r : Receiver := { s.carriage.rx with overrun := overrun }
  have hl : messageLength l = (winchLength y).getD 1 := rfl
  have hlen : l.length = (y :: rest).length := List.length_map ..
  have hloss : noteLoss overrun s = withWrx r s := by simp only [noteLoss, ho, Bool.false_or, r]
  have hback : withWrx r.messageEnded s = s := by
    have e : r.messageEnded = s.carriage.rx := by
      simp only [Receiver.messageEnded, r]
      rw [← htaken, ← ho]
    rw [e, withWrx_self]
  have hmsg : ∀ b, (r.tookAll l).message b = ⟨y :: rest, framing, overrun, b⟩ := fun b => by
    simp only [Receiver.message, Receiver.tookAll, r, htaken, List.nil_append, l, any_framing_map]
    simp [Function.comp_def]
  have hsend : winchSends ⟨y :: rest, framing, overrun, gap⟩ s =
      if gap then gapEnds (l.foldl takeChar (withWrx r s)) else l.foldl takeChar (withWrx r s) := by
    simp only [winchSends, Receiver.begins, Receiver.lacks, ha, List.map_nil, List.isPrefixOf_nil_left, if_true,
      List.length_nil, List.drop_zero, hloss]
    rw [show takeHeld (withWrx r s) = withWrx r s by simp only [takeHeld, withWrx_rx, r, hhold]]
  rw [hsend]
  cases gap with
  | false =>
    rw [if_neg (by simp), takeChars_whole l _ (by simp [l])]
    · rw [withWrx_rx, hmsg, withWrx_withWrx, hback]
    · simp only [withWrx_rx, r, htaken, List.nil_append, hl, hlen]
      exact h0 rfl
  | true =>
    rw [if_pos rfl, takeChars_partial l]
    · have hne : ((r.tookAll l).taken.isEmpty) = false := by simp [Receiver.tookAll, l]
      simp only [gapEnds, withWrx_rx, withWrx_withWrx, hne, Bool.false_eq_true, if_false, hmsg]
      rw [show (r.tookAll l).messageEnded = r.messageEnded from rfl, hback]
    · right
      simp only [withWrx_rx, r, htaken, List.nil_append, hl, hlen]
      exact h1 rfl

theorem noteLoss_none (s : State) : noteLoss false s = s := by
  simp only [noteLoss, Bool.or_false]
  rfl

/-- R26: the character held is taken, and the message is not yet whole. -/
theorem takeHeld_short {s : State} (h : s.carriage.rx.assembled.length < messageLength s.carriage.rx.assembled) :
    takeHeld s = withWrx { s.carriage.rx with holding := none, taken := s.carriage.rx.assembled } s := by
  simp only [takeHeld, Receiver.assembled] at h ⊢
  cases hh : s.carriage.rx.holding with
  | none =>
    simp only [Option.toList_none, List.append_nil]
    rw [← hh, withWrx_self]
  | some c =>
    rw [hh] at h
    have e := takeChars_partial [c] (withWrx { s.carriage.rx with holding := none } s) (.inr h)
    exact e

/-- R124: a gap after characters that the assembler has, no more of the message being sent. -/
theorem winchSends_gap {s : State} {l : List RxChar} {y : RxChar} (ha : s.carriage.rx.assembled = y :: l)
    (hlen : l.length + 1 < (winchLength y.data).getD 1) (hf : ∀ c ∈ y :: l, c.framing = false)
    (ho : s.carriage.rx.overrun = false) : winchSends ⟨(y :: l).map (·.data), false, false, true⟩ s =
      discardMessage .gap (withWrx { s.carriage.rx with holding := none, taken := [] } s) := by
  have hloss := noteLoss_none s
  have hheld : takeHeld s = withWrx { s.carriage.rx with holding := none, taken := y :: l } s := by
    rw [takeHeld_short (by rw [ha]; exact hlen), ha]
  have hany : (y :: l).any (·.framing) = false := by
    rw [List.any_eq_false]
    exact fun c hc => by simp [hf c hc]
  have hbad : linkErrorOf ⟨(y :: l).map (·.data), false, false, true⟩ = some .gap :=
    (linkErrorOf_order _).2.2.1 rfl rfl rfl
  have hbegins : s.carriage.rx.begins ((y :: l).map (·.data)) = true := by
    simp [Receiver.begins, ha]
  have hlacks : s.carriage.rx.lacks ((y :: l).map (·.data)) = [] := by
    rw [Receiver.lacks, if_pos hbegins, ha]
    simp
  simp only [winchSends, hbegins, if_true, hloss, hlacks, List.map_nil, List.foldl_nil, hheld, gapEnds, withWrx_rx,
    List.isEmpty_cons, Bool.false_eq_true, if_false, Receiver.message, hany, ho, withWrx_withWrx]
  rw [messageComes_bad hbad]
  rfl

/-- R124: characters of another message stay ahead of a command's. -/
theorem winchSends_behind {s : State} {l : List RxChar} {y : RxChar} (hh : s.carriage.rx.holding = none)
    (ht : s.carriage.rx.taken = y :: l) (hy : y.data = 0x41) (hl : l.length + 3 < 7) :
    winchSends WinchReport.arrived.message s = withWrx { s.carriage.rx with
      taken := (y :: l) ++ [⟨0x42, false, false⟩, ⟨0xBE, false, false⟩] } s := by
  have hloss := noteLoss_none s
  have hheld : takeHeld s = s := by simp only [takeHeld, hh]
  have hbegins : s.carriage.rx.begins WinchReport.arrived.chars = false := by
    simp only [Receiver.begins, Receiver.assembled, ht, hh, Option.toList_none, List.append_nil, List.map_cons, hy]
    rfl
  have hlacks : s.carriage.rx.lacks WinchReport.arrived.chars = [0x42, 0xBE] := by
    rw [Receiver.lacks, hbegins, if_neg (by simp)]
    rfl
  simp only [winchSends, WinchReport.message, hbegins, hlacks, Bool.false_eq_true, if_false, hheld, hloss]
  rw [takeChars_partial]
  · simp only [Receiver.tookAll, ht]
    rfl
  · right
    have hm : messageLength (s.carriage.rx.taken ++ [⟨0x42, false, false⟩, ⟨0xBE, false, false⟩]) = 7 := by
      rw [ht]
      simp only [messageLength, List.cons_append, List.head?_cons, Option.map_some, hy]
      rfl
    simp only [List.map_cons, List.map_nil, hm]
    simp only [ht, List.length_append, List.length_cons, List.length_nil]
    omega

/-! ## A message that ends with the character held -/

/-- R124, R26: the assembler takes the character held, which ends its message, and the newer character is held. -/
theorem wrxCompletes_ends {samples : List Bool} {c x y : RxChar} {l : List RxChar} {s t : State} {r : Receiver}
    (hc : wrxChar (s.carriage.rx.run samples) = some c) (h : s.carriage.rx.holding = some x)
    (hy : s.carriage.rx.taken ++ [x] = y :: l) (hl : l.length + 1 = (winchLength y.data).getD 1)
    (hr : r = { s.carriage.rx with
      holding := none, taken := [], overrun := false, mode := modeAfter c, lastHigh := samples.getLastD false })
    (ht : messageComes ⟨(y :: l).map (·.data), (y :: l).any (·.framing), s.carriage.rx.overrun, false⟩ (withWrx r s) = t)
    (hrx : t.carriage.rx = r) : wrxCompletes samples true s = withWrx { r with holding := some c } t := by
  subst hr
  have hwhole := takeChars_whole [x] (withWrx { s.carriage.rx.completedAt samples c with holding := none } s)
    (by simp) (by
      simp only [withWrx_rx, Receiver.completedAt_taken, hy]
      exact hl)
  simp only [List.foldl_cons, List.foldl_nil, withWrx_rx, withWrx_withWrx, Receiver.tookAll, Receiver.message,
    Receiver.completedAt_taken, hy, Receiver.completedAt_overrun] at hwhole
  have hheld : takeHeld (withWrx (s.carriage.rx.completedAt samples c) s) = t := by
    simp only [takeHeld, withWrx_rx, Receiver.completedAt_holding, h, withWrx_withWrx]
    exact hwhole.trans ht
  simp only [wrxCompletes, hc, wrxDelivers, if_true, hheld, hrx]

/-- R189: the characters that each report is laid out as. -/
theorem chars_laidOut (d : BitVec 24) (h : Half) (k : Byte) : ∃ x y : Byte,
    (WinchReport.position d h).chars =
      [0x41, d.extractLsb' 0 8, d.extractLsb' 8 8, d.extractLsb' 16 8, h.extractLsb' 0 8, h.extractLsb' 8 8, x] ∧
    WinchReport.arrived.chars = [0x42, 0xBE] ∧ (WinchReport.fault k).chars = [0x43, k, y] ∧
    (WinchReport.position d h).chars.foldl (· + ·) 0 = 0 ∧ (WinchReport.fault k).chars.foldl (· + ·) 0 = 0 :=
  ⟨_, _, rfl, rfl, rfl, sumOf_winchMessage _, sumOf_winchMessage _⟩

/-- A report of the winch on a clean assembler: its message is acted on, or discarded when it is out of range. -/
theorem winchSends_clean {r : WinchReport} {s : State} (h : s.carriage.rx.clean r.chars) : winchSends r.message s =
    if r.outOfRange then discardMessage .range (withWrx { s.carriage.rx with holding := none, taken := [] } s)
    else reportComes r (withWrx { s.carriage.rx with holding := none, taken := [] } s) := by
  have e : ({ s.carriage.rx with holding := none, taken := [], overrun := false } : Receiver) =
      { s.carriage.rx with holding := none, taken := [] } := by rw [← h.1]
  rw [winchSends_report r s h, messageComes_report, e]

theorem outOfRange_position (d : BitVec 24) (h : Half) :
    (WinchReport.position d h).outOfRange = true ↔ 300000 < d.toNat ∨ 30000 < h.toNat := by
  simp only [WinchReport.outOfRange, Bool.or_eq_true, decide_eq_true_eq]
  rfl

theorem arrivedComes_stray {s : State} (h : s.carriage.outstanding = []) : arrivedComes s = discardMessage .strayAnswer s := by
  simp only [arrivedComes, h]

theorem arrivedComes_superseded {s : State} {o : Order} {rest : List Order}
    (h : s.carriage.outstanding = o :: rest) (ha : s.carriage.awaited ≠ some o) :
    arrivedComes s = { s with carriage := { s.carriage with outstanding := rest } } := by
  simp only [arrivedComes, h, ha, if_false]

theorem reportOf_arrived {chars : List Byte} {rest : List Byte} (h : chars = 0x42 :: rest) : reportOf chars = some .arrived := by
  rw [h]
  rfl

/-- Settles O45. -/
theorem winchMessagesAreTaken : Obligations.WinchMessagesAreTaken := by
  refine ⟨winchLength_eq, chars_laidOut, linkErrorOf_order, fun s h => ⟨fun d hd hc => ⟨fun h1 h2 => ?_, fun hr => ?_⟩,
    fun hc => ⟨fun ho => ?_, fun o rest ho ha => ?_⟩, fun m e ha ho hm hne he => ?_, fun l y n hy hn hlt hf ho => ?_,
    fun l y hh ht hy hl => ?_, fun samples c x y l chars rx hc hx hy hl hchars hrx => ?_, fun o rest ho => ?_,
    fun hs => ?_, fun hs => ?_⟩⟩
  · have hr : ¬ (WinchReport.position d hd).outOfRange = true := by rw [outOfRange_position]; omega
    rw [exec_event (f := winchSends (WinchReport.position d hd).message) rfl h, winchSends_clean hc, if_neg hr]
    rfl
  · rw [exec_event (f := winchSends (WinchReport.position d hd).message) rfl h, winchSends_clean hc,
      if_pos ((outOfRange_position d hd).mpr hr)]
    rfl
  · rw [exec_event (f := winchSends WinchReport.arrived.message) rfl h, winchSends_clean hc]
    exact congrArg _ (arrivedComes_stray (s := withWrx _ s) ho)
  · rw [exec_event (f := winchSends WinchReport.arrived.message) rfl h, winchSends_clean hc]
    exact congrArg _ (arrivedComes_superseded (s := withWrx _ s) ho ha)
  · obtain ⟨y, rest, hy⟩ := List.exists_cons_of_ne_nil hne
    obtain ⟨h0, h1⟩ := hm y rest _ hy rfl
    rw [exec_event (f := winchSends m) rfl h, winchSends_fresh ha ho hy h0 h1, messageComes_bad he]
    rfl
  · subst hn
    rw [exec_event (f := winchSends ⟨(y :: l).map (·.data), false, false, true⟩) rfl h, winchSends_gap hy hlt hf ho]
    rfl
  · rw [exec_event (f := winchSends WinchReport.arrived.message) rfl h, winchSends_behind hh ht hy hl]
    rfl
  · have ends := fun t ht hr => wrxCompletes_ends (t := t) hc hx hy hl rfl ht hr
    subst hchars hrx
    rw [exec_wrx h]
    refine ⟨fun e he => ?_, fun hgood => ⟨fun d0 d1 d2 h0 h1 k hch => ?_, fun o rest hyd ho ha => ?_, fun k j hch => ?_⟩⟩
    · rw [ends _ (messageComes_bad he _) rfl]
      rfl
    · rw [ends _ (messageComes_good hgood (by simp only [hch]; exact reportOf_position ..) _) rfl]
      rfl
    · have hr : reportOf ((y :: l).map (·.data)) = some .arrived := reportOf_arrived (by rw [List.map_cons, hyd])
      rw [ends _ ((messageComes_good hgood hr _).trans (arrivedComes_superseded (s := withWrx _ s) ho ha)) rfl]
      rfl
    · have hr : reportOf ((y :: l).map (·.data)) = some (.fault k) := by rw [hch]; rfl
      refine ⟨_, congrArg _ (ends _ (messageComes_good hgood hr _) ?_), ?_⟩
      · simp only [reportComes, winchFaults, stopCarriage_carriage]
        rfl
      · simp only [reportComes, winchFaults, withWrx, stopCarriage_carriage]
        exact ⟨rfl, rfl, rfl, rfl, rfl⟩
  · rw [exec_event (f := fun s => { s with carriage := s.carriage.sent }) rfl h]
    simp only [Carriage.sent, ho]
  · rw [exec_event (f := fun s => { s with carriage := s.carriage.quiet }) rfl h]
    simp only [Carriage.quiet, hs, if_true]
  · rw [exec_event (f := fun s => { s with carriage := s.carriage.quiet }) rfl h]
    simp only [Carriage.quiet, hs, if_false]

end Sys2Proof.Machine
end

section
/-! The run of a gauging (R160 to R163): the order of the verticals, the requests to the cableway, and what follows a
sounding, a point reached and a point result. -/

namespace Sys2Proof.Machine

/-! ## The order of the verticals (R158, R163) -/

/-- The first element of a list in strict order at which a test holds. -/
theorem find?_sorted {R : Nat → Nat → Prop} (hR : ∀ a b, R a b → ¬ R b a) (p : Nat → Bool) {l : List Nat}
    (hl : l.Pairwise R) (j : Nat) :
    l.find? p = some j ↔ p j = true ∧ j ∈ l ∧ ∀ k ∈ l, R k j → p k = false := by
  induction l with
  | nil => simp
  | cons a l ih =>
    obtain ⟨ha, hl⟩ := List.pairwise_cons.mp hl
    have ih := ih hl
    cases hp : p a with
    | true =>
      rw [List.find?_cons_of_pos hp]
      constructor
      · intro h
        obtain rfl := Option.some.inj h
        refine ⟨hp, List.mem_cons_self .., fun k hk hr => ?_⟩
        rcases List.mem_cons.mp hk with rfl | hk
        · exact absurd hr (hR _ _ hr)
        · exact absurd hr (hR _ _ (ha k hk))
      · rintro ⟨_, hj, hno⟩
        rcases List.mem_cons.mp hj with rfl | hj
        · rfl
        · rw [hno a (List.mem_cons_self ..) (ha j hj)] at hp
          exact absurd hp (by simp)
    | false =>
      rw [List.find?_cons_of_neg (by simp [hp]), ih]
      refine and_congr_right fun hj => ?_
      have hne : j ≠ a := fun e => by rw [e, hp] at hj; exact absurd hj (by simp)
      simp only [List.mem_cons, hne, false_or, forall_eq_or_imp, hp, implies_true, true_and]

theorem afterFirst {i : Nat} {pre post : List Nat} (h : i ∉ pre) :
    ((pre ++ i :: post).dropWhile fun j => j != i).drop 1 = post := by
  rw [List.dropWhile_append_of_pos fun a ha => by simpa using fun e : a = i => h (e ▸ ha)]
  simp

theorem range_split {i n : Nat} (h : i < n) : List.range n = List.range i ++ i :: List.range' (i + 1) (n - i - 1) := by
  have e : n = i + (n - i - 1 + 1) := by omega
  conv_lhs => rw [e]
  rw [List.range_add, List.range_succ_eq_map, List.map_cons, List.map_map]
  congr 1
  rw [List.range'_eq_map_range, Nat.add_zero]
  congr 1
  refine List.map_congr_left fun k _ => ?_
  simp only [Function.comp_apply, Nat.succ_eq_add_one]
  omega

theorem todoAt_lt {g : Gauging} {j : Nat} (h : g.todoAt j = true) : j < g.verticals.length := by
  simp only [Gauging.todoAt] at h
  cases hv : g.verticals[j]? with
  | none => rw [hv] at h; simp at h
  | some v => exact (List.getElem?_eq_some_iff.mp hv).1

/-- R163: the next vertical to visit is the first TODO one after the one at `i` in the direction order. -/
theorem nextTodo_iff {g : Gauging} {i : Nat} (hi : i < g.verticals.length) (j : Nat) :
    g.nextTodo i = some j ↔ comesNext g i j := by
  have hlow : i ∉ List.range i := by simp
  have hhigh : i ∉ (List.range' (i + 1) (g.verticals.length - i - 1)).reverse := by simp
  cases hd : g.direction with
  | fromStart =>
    have htail : (g.order.dropWhile fun j => j != i).drop 1 = List.range' (i + 1) (g.verticals.length - i - 1) := by
      simp only [Gauging.order, hd]
      rw [range_split hi, afterFirst hlow]
    rw [Gauging.nextTodo, htail, find?_sorted (R := (· < ·)) (fun a b => by omega) _ (List.pairwise_lt_range' ..)]
    simp only [comesNext, hd, List.mem_range'_1]
    refine and_congr_right fun hj => ?_
    have hlt := todoAt_lt hj
    exact ⟨fun ⟨hm, hno⟩ => ⟨by omega, fun k h1 h2 => hno k (by omega) h2⟩,
      fun ⟨hm, hno⟩ => ⟨by omega, fun k hk h2 => hno k (by omega) h2⟩⟩
  | fromEnd =>
    have htail : (g.order.dropWhile fun j => j != i).drop 1 = (List.range i).reverse := by
      simp only [Gauging.order, hd]
      rw [range_split hi, List.reverse_append, List.reverse_cons, List.append_assoc, List.singleton_append,
        afterFirst hhigh]
    rw [Gauging.nextTodo, htail, find?_sorted (R := (· > ·)) (fun a b => by omega) _
      (List.pairwise_reverse.mpr List.pairwise_lt_range)]
    simp only [comesNext, hd, List.mem_reverse, List.mem_range]
    refine and_congr_right fun hj => ?_
    exact ⟨fun ⟨hm, hno⟩ => ⟨hm, fun k h1 h2 => hno k h2 h1⟩, fun ⟨hm, hno⟩ => ⟨hm, fun k hk h2 => hno k h2 hk⟩⟩

theorem nextTodo_none {g : Gauging} {i : Nat} (hi : i < g.verticals.length) (h : ∀ j, ¬ comesNext g i j) :
    g.nextTodo i = none := by
  cases hn : g.nextTodo i with
  | none => rfl
  | some j => exact absurd ((nextTodo_iff hi j).mp hn) (h j)

/-- R158: the first vertical to visit. -/
theorem firstTodo_iff (g : Gauging) (i : Nat) : g.firstTodo = some i ↔ firstToVisit g i := by
  cases hd : g.direction with
  | fromStart =>
    simp only [Gauging.firstTodo, Gauging.order, hd]
    rw [find?_sorted (R := (· < ·)) (fun a b => by omega) _ List.pairwise_lt_range]
    simp only [firstToVisit, hd, List.mem_range]
    refine and_congr_right fun hj => ?_
    have hlt := todoAt_lt hj
    exact ⟨fun ⟨_, hno⟩ k hk => hno k (by omega) hk, fun hno => ⟨hlt, fun k _ hk => hno k hk⟩⟩
  | fromEnd =>
    simp only [Gauging.firstTodo, Gauging.order, hd]
    rw [find?_sorted (R := (· > ·)) (fun a b => by omega) _ (List.pairwise_reverse.mpr List.pairwise_lt_range)]
    simp only [firstToVisit, hd, List.mem_reverse, List.mem_range]
    refine and_congr_right fun hj => ?_
    have hlt := todoAt_lt hj
    refine ⟨fun ⟨_, hno⟩ k hk => ?_, fun hno => ⟨hlt, fun k _ hk => hno k hk⟩⟩
    cases ht : g.todoAt k with
    | false => rfl
    | true => exact ht.symm.trans (hno k (todoAt_lt ht) hk)

/-! ## The requests to the cableway (R131) -/

theorem takesSet_state {c : Carriage} {demand : Bool} (h : c.takesSet demand = true) :
    demand = false ∧ (c.state = .sounding ∨ c.state = .waitingMeter) := by
  simp only [Carriage.takesSet, Carriage.atBed, Bool.and_eq_true, Bool.or_eq_true, beq_iff_eq, Bool.not_eq_true'] at h
  obtain ⟨hs, hd⟩ := h
  exact ⟨hd, hs.imp (·.1) id⟩

theorem askSet_taken {depth offset : Nat} {s : State} (h : s.carriage.takesSet s.watches.demand = true) :
    askSet depth offset s = putCarriage (s.carriage.setMeter depth offset) s := if_pos h

theorem askMoveOn_taken {d : Nat} {s : State} (h : s.carriage.takesSet s.watches.demand = true) (hd : d ≤ 300000) :
    askMoveOn d s = putCarriage (s.carriage.raise (.distance d)) s := by
  have hm : d ≤ maxDistance := hd
  simp [askMoveOn, Carriage.takesMoveOn, h, hm]

theorem askReturn_taken {s : State} (h : s.carriage.state.working = true) :
    askReturn s = putCarriage s.carriage.enterReturn s := if_pos h

@[simp] theorem raise_state (x : Onward) (c : Carriage) : (c.raise x).state = .raising := by simp [Carriage.raise]
@[simp] theorem raise_onward (x : Onward) (c : Carriage) : (c.raise x).onward = some x := by simp [Carriage.raise]
@[simp] theorem setMeter_state (a b : Nat) (c : Carriage) : (c.setMeter a b).state = .setting := by simp [Carriage.setMeter]
@[simp] theorem traverse_state (d : Nat) (c : Carriage) : (c.traverse d).state = .traversing := by simp [Carriage.traverse]
@[simp] theorem traverse_phase (d : Nat) (c : Carriage) : (c.traverse d).phase = .moving := by simp [Carriage.traverse]

/-! ## What follows a finished vertical (R163, R169) -/

theorem addLatest_verticals (g : Gauging) : g.addLatest.verticals = g.verticals := by
  simp only [Gauging.addLatest]
  split <;> rfl

theorem finishVertical_next {n : Fin 4} {g : Gauging} {i j : Nat} {s : State} (h : g.addLatest.nextTodo i = some j) :
    finishVertical n g i s = askMoveOn (g.addLatest.distanceAt j)
      (addMember (.gauging n) (putGauging n (g.addLatest.visiting j) s)) := by
  simp only [finishVertical, h]

theorem finishVertical_last {n : Fin 4} {g : Gauging} {i : Nat} {s : State} (h : g.addLatest.nextTodo i = none) :
    finishVertical n g i s =
      askReturn (addMember (.gauging n) (putGauging n (g.addLatest.completed s.host.time s.ratings) s)) := by
  simp only [finishVertical, h]

theorem finishVertical_member (n : Fin 4) (g : Gauging) (i : Nat) (s : State) :
    hasMember (finishVertical n g i s).host.attention (.gauging n) = true := by
  cases h : g.addLatest.nextTodo i with
  | none =>
    rw [finishVertical_last h]
    exact (askReturn_marked _).keeps (by simp)
  | some j =>
    rw [finishVertical_next h]
    exact (askMoveOn_marked ..).keeps (by simp)

/-- R163, R169: a finished vertical sends a carriage at the bed or at a point to the next one, or home. -/
theorem finishVertical_goesOn {n : Fin 4} {g : Gauging} {i : Nat} {s : State} (hi : i < g.verticals.length)
    (hs : s.carriage.takesSet s.watches.demand = true) (hd : ∀ v ∈ g.verticals, v.distance ≤ 300000) :
    goesOn s (finishVertical n g i s) n g i := by
  have hi' : i < g.addLatest.verticals.length := by rw [addLatest_verticals]; exact hi
  have hnext : ∀ j v, comesNext g.addLatest i j → g.addLatest.verticals[j]? = some v →
      finishVertical n g i s = putCarriage (s.carriage.raise (.distance v.distance))
        (addMember (.gauging n) (putGauging n (g.addLatest.visiting j) s)) := fun j v hj hv => by
    have he : g.addLatest.distanceAt j = v.distance := by simp only [Gauging.distanceAt, hv, Option.map_some, Option.getD_some]
    rw [finishVertical_next ((nextTodo_iff hi' j).mpr hj), he, askMoveOn_taken]
    · simp
    · simpa using hs
    · exact hd v (addLatest_verticals g ▸ List.mem_of_getElem? hv)
  have hlast : (∀ j, ¬ comesNext g.addLatest i j) → finishVertical n g i s = putCarriage (s.carriage.raise .home)
      (addMember (.gauging n) (putGauging n (g.addLatest.completed s.host.time s.ratings) s)) := fun hno => by
    obtain ⟨_, hst⟩ := takesSet_state hs
    have hw : s.carriage.state.working = true := by rcases hst with h | h <;> rw [h] <;> rfl
    have hr : s.carriage.enterReturn = s.carriage.raise .home :=
      enterReturn_raises (hst.elim (fun h => .inr (.inl h)) fun h => .inr (.inr (.inr h)))
    rw [finishVertical_last (nextTodo_none hi' hno), askReturn_taken (by simpa using hw)]
    simp [hr]
  refine ⟨finishVertical_member .., ?_, g.addLatest, rfl, fun j v hj hv => ?_, fun hno => ?_⟩
  · by_cases hno : ∀ j, ¬ comesNext g.addLatest i j
    · rw [hlast hno]
      simp
    · push Not at hno
      obtain ⟨j, hj⟩ := hno
      have hlt : j < g.addLatest.verticals.length := todoAt_lt hj.1
      rw [hnext j _ hj (List.getElem?_eq_getElem hlt)]
      simp
  · rw [hnext j v hj hv]
    exact ⟨by simp, by simp; rfl⟩
  · rw [hlast hno]
    exact ⟨by simp, by simp⟩

theorem goesOn_congr {s u t : State} {n : Fin 4} {g : Gauging} {i : Nat} (h : goesOn u t n g i)
    (hg : u.gaugings = s.gaugings) (ht : u.host.time = s.host.time) (hr : u.ratings = s.ratings) : goesOn s t n g i := by
  rw [goesOn, hg, ht, hr] at h
  exact h

/-! ## The running gauging (R157) -/

theorem runningGauging_of_runs {s : State} {n : Fin 4} {g : Gauging} (h : runs s n g) : runningGauging s = some (n, g) := by
  obtain ⟨hg, hr, _, huniq⟩ := h
  cases hrun : runningGauging s with
  | none =>
    have hno := List.findSome?_eq_none_iff.mp hrun n (List.mem_finRange n)
    simp only [hg, hr, if_true] at hno
    exact absurd hno (by simp)
  | some p =>
    obtain ⟨hp, hpr⟩ := runningGauging_some (n := p.1) (g := p.2) hrun
    have e := huniq p.1 p.2 hp hpr
    rw [e, hg] at hp
    rw [← e, Option.some.inj hp]

theorem runs_congr {s t : State} {n : Fin 4} {g : Gauging} (h : runs s n g) (hg : t.gaugings = s.gaugings) : runs t n g := by
  rw [runs, hg]
  exact h

theorem pointDepths_eq (v : Vertical) (offset : Nat) : v.pointDepths offset = pointDepthsOf v offset := by
  cases hm : v.method <;> cases hb : v.nearBed <;> simp only [Vertical.pointDepths, pointDepthsOf, hm, hb] <;> rfl

theorem set_distances {g : Gauging} {i : Nat} {v w : Vertical} (hd : ∀ x ∈ g.verticals, x.distance ≤ 300000)
    (hv : g.verticals[i]? = some v) (hw : w.distance = v.distance) :
    ∀ x ∈ g.verticals.set i w, x.distance ≤ 300000 := fun x hx => by
  rcases List.mem_or_eq_of_mem_set hx with hx | rfl
  · exact hd x hx
  · rw [hw]
    exact hd v (List.mem_of_getElem? hv)

/-! ## Point results (R148 to R150, R162) -/

/-- What R148 to R150 say of the point result of a count over an exposure. -/
theorem pointResult_spec (r : MeterRating) (count n : Nat) (saturated : Bool) :
    ∃ x, x = pointResult r count n saturated ∧ x.count = count ∧ x.taken = n ∧ x.countSaturated = saturated ∧
    x.velocity ≤ 10000 ∧ x.rate = revolutionRate count r.p n ∧
    (count = 0 → x.velocity = 0 ∧ x.still = true ∧ x.segment = none) ∧
    (count ≠ 0 → x.still = false ∧ x.segment = some (if x.rate < r.nb then 1 else 2) ∧
      x.velocity = min 10000 (if x.rate < r.nb then r.a1 + halfUp (r.b1 * x.rate) 1000
        else r.a2 + halfUp (r.b2 * x.rate) 1000)) := by
  refine ⟨_, rfl, ?_⟩
  by_cases h : count = 0
  · simp only [pointResult, if_pos h]
    exact ⟨trivial, trivial, trivial, by omega, trivial, fun _ => ⟨trivial, trivial, trivial⟩, fun hn => absurd h hn⟩
  · simp only [pointResult, if_neg h]
    exact ⟨trivial, trivial, trivial, Nat.min_le_right .., trivial, fun hn => absurd hn h,
      fun _ => ⟨trivial, rfl, Nat.min_comm ..⟩⟩

/-- R151: a request to an idle counter to abandon an exposure changes nothing. -/
theorem abandon_of_idle {m : Meter} (h : m.exposing = false) : m.abandon = m := by simp [Meter.abandon, h]

theorem putCarriage_idle {c : Carriage} {s : State} (h : s.meter.exposing = false) : (putCarriage c s).meter = s.meter := by
  rw [putCarriage_meter]
  split
  · exact abandon_of_idle h
  · rfl

theorem askSet_idle {a b : Nat} {s : State} (h : s.meter.exposing = false) : (askSet a b s).meter = s.meter := by
  simp only [askSet]
  split
  · exact putCarriage_idle h
  · rfl

theorem askMoveOn_idle {d : Nat} {s : State} (h : s.meter.exposing = false) : (askMoveOn d s).meter = s.meter := by
  simp only [askMoveOn]
  split
  · exact putCarriage_idle h
  · rfl

theorem askReturn_idle {s : State} (h : s.meter.exposing = false) : (askReturn s).meter = s.meter := by
  simp only [askReturn]
  split
  · exact putCarriage_idle h
  · rfl

theorem finishVertical_idle {n : Fin 4} {g : Gauging} {i : Nat} {s : State} (h : s.meter.exposing = false) :
    (finishVertical n g i s).meter = s.meter := by
  cases hn : g.addLatest.nextTodo i with
  | none => rw [finishVertical_last hn, askReturn_idle (by simpa using h)]; simp
  | some j => rw [finishVertical_next hn, askMoveOn_idle (by simpa using h)]; simp

theorem takePointResult_idle {x : PointResult} {s : State} (h : s.meter.exposing = false) :
    (takePointResult x s).meter = s.meter := by
  simp only [takePointResult]
  (repeat' split)
  · rw [askSet_idle (by simpa using h)]; simp
  · exact finishVertical_idle h
  · rfl
  · rfl

/-- R162: a point result in a running gauging whose exposure it ends. -/
theorem takePointResult_taken {x : PointResult} {s : State} {n : Fin 4} {g : Gauging} {i k : Nat} {v : Vertical}
    (hr : runs s n g) (hs : g.step = .exposing) (hc : g.current = some i) (hv : g.verticals[i]? = some v)
    (hk : g.point = some k) : takePointResult x s =
      if k + 1 < (v.pointDepths g.offset).length then
        askSet ((v.pointDepths g.offset).getD (k + 1) 0) g.offset (putGauging n { g.withVertical i
          (v.withPoint ((v.pointDepths g.offset).getD k 0) x) with point := some (k + 1), step := .setting } s)
      else finishVertical n (g.withVertical i (v.withPoint ((v.pointDepths g.offset).getD k 0) x).completed) i s := by
  simp only [takePointResult, runningGauging_of_runs hr, hs, hc, hv, hk, Option.bind_some, Option.map_some]

theorem takePointResult_effect (x : PointResult) (s : State) : LinkOnly s (takePointResult x s) := by
  refine ⟨(takePointResult x s).carriage, (takePointResult x s).meter, (takePointResult x s).gaugings,
    (takePointResult x s).host.attention, State.eq_of_fields ?_ (CommandPort.eq_of_fields ?_ ?_ ?_ ?_ rfl ?_ ?_) ?_ ?_ ?_
      ?_ ?_ ?_ ?_ rfl rfl rfl ?_ ?_⟩ <;> simp

/-- R162: the mean velocity by method. -/
theorem meanVelocity_spec (m : Method) (coeff : Nat) (l : List Nat) :
    (∀ a, m = .sixTenths → l = [a] → meanVelocity m coeff l = a) ∧
    (∀ a, m = .surface → l = [a] → meanVelocity m coeff l = halfUp (a * coeff) 1000) ∧
    (∀ a b, m = .twoPoint → l = [a, b] → meanVelocity m coeff l = halfUp (a + b) 2) ∧
    (∀ a b c, m = .threePoint → l = [a, b, c] → meanVelocity m coeff l = halfUp (a + 2 * b + c) 4) :=
  ⟨by rintro a rfl rfl; rfl, by rintro a rfl rfl; rfl, by rintro a b rfl rfl; rfl, by rintro a b c rfl rfl; rfl⟩

/-- R162, R163: what a point result does in a running gauging whose carriage waits at the point. -/
theorem takePointResult_spec {x : PointResult} {s : State} {m : Fin 4} {g : Gauging} {i k : Nat} {v w : Vertical}
    (hr : runs s m g) (hd : s.watches.demand = false) (hc : s.carriage.state = .waitingMeter) (hs : g.step = .exposing)
    (hi : g.current = some i) (hv : g.verticals[i]? = some v) (hk : g.point = some k)
    (hw : w = { v with
      points := v.points ++ [((pointDepthsOf v g.offset).getD k 0, x.velocity)], still := v.still || x.still
      saturated := v.saturated || x.countSaturated || x.velocityLimited }) :
    (k + 1 < (pointDepthsOf v g.offset).length → (takePointResult x s).carriage.state = .setting ∧
      (takePointResult x s).gaugings = putAt s.gaugings m
        (some { g with verticals := g.verticals.set i w, point := some (k + 1), step := .setting })) ∧
    ((pointDepthsOf v g.offset).length ≤ k + 1 → ∃ mean,
      goesOn s (takePointResult x s) m { g with verticals := g.verticals.set i { w with
        status := .done, mean := some mean, flow := some (mean * v.depth.getD 0 * v.span) } } i ∧
      (∀ a, v.method = .sixTenths → w.points.map (·.2) = [a] → mean = a) ∧
      (∀ a, v.method = .surface → w.points.map (·.2) = [a] → mean = halfUp (a * v.surfaceCoeff) 1000) ∧
      (∀ a b, v.method = .twoPoint → w.points.map (·.2) = [a, b] → mean = halfUp (a + b) 2) ∧
      (∀ a b c, v.method = .threePoint → w.points.map (·.2) = [a, b, c] → mean = halfUp (a + 2 * b + c) 4)) := by
  have htakes : s.carriage.takesSet s.watches.demand = true := by simp [Carriage.takesSet, hc, hd]
  have hlt : i < g.verticals.length := (List.getElem?_eq_some_iff.mp hv).1
  have htaken := takePointResult_taken (x := x) hr hs hi hv hk
  rw [pointDepths_eq] at htaken
  subst hw
  refine ⟨fun hmore => ?_, fun hlast => ?_⟩
  · rw [htaken, if_pos hmore, askSet_taken (by simpa using htakes)]
    exact ⟨by simp, by simp; rfl⟩
  · rw [htaken, if_neg (by omega)]
    refine ⟨meanVelocity v.method v.surfaceCoeff _, ?_, meanVelocity_spec ..⟩
    exact finishVertical_goesOn (by simpa [Gauging.withVertical] using hlt) htakes (set_distances hr.2.2.1 hv rfl)

/-- Settles O49. -/
theorem anExposureEndsInAPointResult : Obligations.AnExposureEndsInAPointResult := by
  intro s r n h he hr hn
  obtain ⟨x, hx, hcount, htaken, hsat, hvel, hrate, h0, h1⟩ := pointResult_spec r s.meter.count n s.meter.saturated
  have hres : s.meter.result = some x := by simp only [Meter.result, he, hr, hn, hx]
  have hidle : (takePointResult x { s with meter := s.meter.finish x }).meter = s.meter.finish x :=
    takePointResult_idle (s := { s with meter := s.meter.finish x }) rfl
  have hexec : exec .exposureExpiry s = .next (takePointResult x { s with meter := s.meter.finish x }) := by
    rw [exec_event (f := exposureExpires) rfl h]
    simp only [exposureExpires, hres]
  refine ⟨_, x, hexec, hidle, hcount, htaken, hsat, hvel, hrate, h0, h1, ?_, fun m g i k v w hrun hd hc hs hi hv hk hw => ?_⟩
  · obtain ⟨ca, me, ga, att, e⟩ := takePointResult_effect x { s with meter := s.meter.finish x }
    rw [e]
  · exact takePointResult_spec (s := { s with meter := s.meter.finish x }) hrun hd hc hs hi hv hk hw

end Sys2Proof.Machine
end

section
/-! The answer of the awaited command (R126, R130, R132 to R135): what it does by carriage state, and in a running gauging
by what the sounding or the point reached calls for (R160, R161). -/

namespace Sys2Proof.Machine

/-! ## What the requests leave of a sounding -/

/-- The outstanding list and what a sounding measured stand as they were. -/
structure SoundingKept (c e : Carriage) : Prop where
  outstanding : e.outstanding = c.outstanding
  bedHoist : e.bedHoist = c.bedHoist
  soundedDepth : e.soundedDepth = c.soundedDepth

theorem SoundingKept.refl (c : Carriage) : SoundingKept c c := ⟨rfl, rfl, rfl⟩

theorem await_soundingKept (m : WinchCommand) (c : Carriage) : SoundingKept c (c.await m) := ⟨rfl, rfl, rfl⟩

theorem callMove_soundingKept (m : WinchCommand) (c : Carriage) : SoundingKept c (c.callMove m) := by
  simp only [Carriage.callMove]
  split <;> exact ⟨rfl, rfl, rfl⟩

theorem raise_soundingKept (x : Onward) (c : Carriage) : SoundingKept c (c.raise x) := by
  obtain ⟨h1, h2, h3⟩ := callMove_soundingKept (.hoistTo 0) { c with state := .raising, phase := .none, onward := some x }
  exact ⟨h1, h2, h3⟩

theorem setMeter_soundingKept (a b : Nat) (c : Carriage) : SoundingKept c (c.setMeter a b) := by
  obtain ⟨h1, h2, h3⟩ := callMove_soundingKept (.hoistTo (c.setTarget a b)) { c with state := .setting, phase := .none }
  exact ⟨h1, h2, h3⟩

theorem enterReturn_soundingKept (c : Carriage) : SoundingKept c c.enterReturn := by
  by_cases hr : c.state = .lowering ∨ c.state = .sounding ∨ c.state = .setting ∨ c.state = .waitingMeter
  · rw [enterReturn_raises hr]
    exact raise_soundingKept ..
  by_cases hs : c.state = .unhomed ∨ c.state = .homing ∨ c.state = .parked ∨ c.state = .returning ∨ c.state = .stopped
  · rw [enterReturn_stays hs]
    exact .refl c
  by_cases ho : c.state = .raising ∨ (c.state = .traversing ∧ c.phase = .stopping)
  · rw [enterReturn_onward ho]
    exact ⟨rfl, rfl, rfl⟩
  have ht : c.state = .traversing := by cases h : c.state <;> simp [h] at hr hs ho; rfl
  have hp : c.phase ≠ .stopping := fun h => ho (.inr ⟨ht, h⟩)
  simp only [Carriage.enterReturn, ht, hp, if_false]
  split
  · obtain ⟨h1, h2, h3⟩ := raise_soundingKept .home { c with pendingMove := none }
    exact ⟨h1, h2, h3⟩
  · exact ⟨rfl, rfl, rfl⟩

theorem askSet_soundingKept (a b : Nat) (s : State) : SoundingKept s.carriage (askSet a b s).carriage := by
  simp only [askSet]
  split
  · rw [putCarriage_carriage]; exact setMeter_soundingKept ..
  · exact .refl _

theorem askMoveOn_soundingKept (d : Nat) (s : State) : SoundingKept s.carriage (askMoveOn d s).carriage := by
  simp only [askMoveOn]
  split
  · rw [putCarriage_carriage]; exact raise_soundingKept ..
  · exact .refl _

theorem askReturn_soundingKept (s : State) : SoundingKept s.carriage (askReturn s).carriage := by
  simp only [askReturn]
  split
  · rw [putCarriage_carriage]; exact enterReturn_soundingKept _
  · exact .refl _

theorem finishVertical_soundingKept (n : Fin 4) (g : Gauging) (i : Nat) (s : State) :
    SoundingKept s.carriage (finishVertical n g i s).carriage := by
  cases h : g.addLatest.nextTodo i with
  | none => rw [finishVertical_last h]; simpa using askReturn_soundingKept (addMember (.gauging n) (putGauging n _ s))
  | some j => rw [finishVertical_next h]; simpa using askMoveOn_soundingKept _ (addMember (.gauging n) (putGauging n _ s))

theorem takeSounded_soundingKept (d : Nat) (s : State) : SoundingKept s.carriage (takeSounded d s).carriage := by
  simp only [takeSounded]
  (repeat' split)
  · simpa using askSet_soundingKept _ _ (putGauging _ _ s)
  · exact finishVertical_soundingKept ..
  · exact .refl _
  · exact .refl _

theorem takePointSet_soundingKept (s : State) : SoundingKept s.carriage (takePointSet s).carriage := by
  simp only [takePointSet]
  (repeat' split)
  · simpa using SoundingKept.refl s.carriage
  · simpa using askReturn_soundingKept (putGauging _ _ s)
  · simpa using askReturn_soundingKept (putGauging _ _ s)
  · exact .refl _
  · exact .refl _

theorem putSounding_soundingKept (c : Carriage) (s : State) : SoundingKept c (putSounding c s).carriage := by
  simp only [putSounding]
  split
  · simpa using takeSounded_soundingKept (c.soundedDepth.getD 0) (putCarriage c s)
  · simpa using SoundingKept.refl c

theorem enterSounding_outstanding (c : Carriage) : c.enterSounding.outstanding = c.outstanding := by
  simp only [Carriage.enterSounding]
  split
  · rfl
  · exact (callMove_soundingKept ..).outstanding

theorem enterLowering_outstanding (c : Carriage) : c.enterLowering.outstanding = c.outstanding := by
  simp only [Carriage.enterLowering]
  split
  · exact enterSounding_outstanding _
  · exact (callMove_soundingKept ..).outstanding

/-! ## The answer by carriage state -/

section
variable {c : Carriage} {s : State}

theorem answered_homing (h : c.state = .homing) :
    answered c s = putCarriage { c with state := .parked, distance := some 0, hoist := some 0 } s := by
  simp only [answered, h]

theorem answered_returning (h : c.state = .returning) : answered c s =
    takeParked (putCarriage { c with state := .parked, distance := some 0, hoist := some 0, onward := none } s) := by
  simp only [answered, h]

theorem answered_halted_traverse (h : c.state = .traversing) (hp : c.phase = .stopping) :
    answered c s = putCarriage (c.raise .home) s := by
  simp only [answered, h, hp, if_true]

theorem answered_traverse (h : c.state = .traversing) (hp : c.phase ≠ .stopping) :
    answered c s = putSounding c.enterLowering s := by
  simp only [answered, h, hp, if_false]

theorem answered_halted_lowering (h : c.state = .lowering) (hp : c.phase = .stopping) :
    answered c s = putSounding (Carriage.enterSounding { c with surfaceHoist := c.hoist }) s := by
  simp only [answered, h, hp, if_true]

theorem answered_lowering (h : c.state = .lowering) (hp : c.phase ≠ .stopping) :
    answered c s = stopCarriage .noSurface c s := by
  simp only [answered, h, hp, if_false]

theorem answered_halted_sounding (h : c.state = .sounding) (hp : c.phase = .stopping) :
    answered c s = putSounding c.endSounding s := by
  simp only [answered, h, hp, if_true]

theorem answered_sounding (h : c.state = .sounding) (hp : c.phase ≠ .stopping) :
    answered c s = stopCarriage .noBed c s := by
  simp only [answered, h, hp, if_false]

theorem answered_setting (h : c.state = .setting) :
    answered c s = takePointSet (putCarriage { c with state := .waitingMeter } s) := by
  simp only [answered, h]

theorem answered_onTo {d : Nat} (h : c.state = .raising) (ho : c.onward = some (.distance d)) :
    answered c s = putCarriage (c.traverse d) s := by
  simp only [answered, h, ho]

theorem answered_home (h : c.state = .raising) (ho : ∀ d, c.onward ≠ some (.distance d)) :
    answered c s = putCarriage (Carriage.callMove (.traverseTo 0) { c with state := .returning }) s := by
  simp only [answered, h]
  cases hc : c.onward with
  | none => rfl
  | some x =>
    cases x with
    | distance d => exact absurd hc (ho d)
    | home => rfl

theorem answered_rest (h : c.state = .unhomed ∨ c.state = .parked ∨ c.state = .waitingMeter ∨ c.state = .stopped) :
    answered c s = putCarriage c s := by
  rcases h with h | h | h | h <;> simp only [answered, h]

end

/-- R126: whatever an answer is acted on with, it leaves the rest of the outstanding list. -/
theorem answered_outstanding (c : Carriage) (s : State) : (answered c s).carriage.outstanding = c.outstanding := by
  cases hc : c.state with
  | homing => rw [answered_homing hc, putCarriage_carriage]
  | returning => rw [answered_returning hc]; simp
  | traversing =>
    by_cases hp : c.phase = .stopping
    · rw [answered_halted_traverse hc hp, putCarriage_carriage]
      exact (raise_soundingKept ..).outstanding
    · rw [answered_traverse hc hp]
      exact (putSounding_soundingKept ..).outstanding.trans (enterLowering_outstanding c)
  | lowering =>
    by_cases hp : c.phase = .stopping
    · rw [answered_halted_lowering hc hp]
      exact (putSounding_soundingKept ..).outstanding.trans (enterSounding_outstanding _)
    · rw [answered_lowering hc hp, stopCarriage_carriage]
      rfl
  | sounding =>
    by_cases hp : c.phase = .stopping
    · rw [answered_halted_sounding hc hp]
      exact (putSounding_soundingKept ..).outstanding
    · rw [answered_sounding hc hp, stopCarriage_carriage]
      rfl
  | setting =>
    rw [answered_setting hc]
    have hk := (takePointSet_soundingKept (putCarriage { c with state := .waitingMeter } s)).outstanding
    rwa [putCarriage_carriage] at hk
  | raising =>
    by_cases ho : ∃ d, c.onward = some (.distance d)
    · obtain ⟨d, ho⟩ := ho
      rw [answered_onTo hc ho, putCarriage_carriage]
      exact (callMove_soundingKept ..).outstanding
    · rw [answered_home hc fun d hd => ho ⟨d, hd⟩, putCarriage_carriage]
      exact (callMove_soundingKept ..).outstanding
  | unhomed => rw [answered_rest (.inl hc), putCarriage_carriage]
  | parked => rw [answered_rest (.inr (.inl hc)), putCarriage_carriage]
  | waitingMeter => rw [answered_rest (.inr (.inr (.inl hc))), putCarriage_carriage]
  | stopped => rw [answered_rest (.inr (.inr (.inr hc))), putCarriage_carriage]

/-- A sounding that has not ended reports nothing. -/
theorem putSounding_carriage {c : Carriage} (s : State) (h : c.phase ≠ .atBed) : (putSounding c s).carriage = c := by
  have hb : c.atBed = false := by simp [Carriage.atBed, h]
  simp [putSounding, hb]

theorem enterLowering_dry {c : Carriage} (h : c.surfaceContact = false) : c.enterLowering =
    Carriage.callMove (.hoistTo fullHoist) { c with
      state := .lowering, phase := .payingOut, surfaceHoist := none, bedHoist := none, soundedDepth := none
      awaited := none, moveLeft := none } := by
  simp only [Carriage.enterLowering, h, Bool.false_eq_true, if_false]

theorem enterSounding_off {c : Carriage} (h : c.bedContact = false) : c.enterSounding =
    Carriage.callMove (.hoistTo fullHoist) { c with state := .sounding, phase := .payingOut } := by
  simp only [Carriage.enterSounding, h, Bool.false_eq_true, if_false]

theorem callMove_hoists (m : WinchCommand) (c : Carriage) : (c.callMove m).surfaceHoist = c.surfaceHoist := by
  simp only [Carriage.callMove]
  split <;> rfl

theorem traverse_target (d : Nat) (c : Carriage) :
    (c.traverse d).target = if c.hold then c.target else some (.distance d) := by
  simp only [Carriage.traverse, Carriage.callMove]
  cases c.hold <;> rfl

/-! ## A sounding in a running gauging (R160) -/

theorem sounded_edge {v : Vertical} (offset d : Nat) (h : v.edge = true) :
    v.sounded offset d = { v with depth := some d, status := .done } := if_pos h

theorem sounded_shallow {v : Vertical} {offset d : Nat} (h : v.edge = false) (hd : d < offset + 100) :
    v.sounded offset d = { v with depth := some d, status := .skipped, flow := some 0 } := by
  have hr : ((d : Int) - offset < 100) := by omega
  simp only [Vertical.sounded, h, Bool.false_eq_true, if_false, hr, if_true]

/-- R160: a vertical deep enough takes its method, downgraded or near the bed as the room calls for. -/
theorem sounded_deep {v : Vertical} {offset d : Nat} (h : v.edge = false) (hd : offset + 100 ≤ d) :
    ∃ w, w = v.sounded offset d ∧
      w = { v with depth := some d, method := w.method, downgraded := w.downgraded, nearBed := w.nearBed } ∧
      ((v.method = .twoPoint ∨ v.method = .threePoint) ∧ d - offset < halfUp (d * 8) 10 →
        w.method = .sixTenths ∧ w.downgraded = true) ∧
      (¬((v.method = .twoPoint ∨ v.method = .threePoint) ∧ d - offset < halfUp (d * 8) 10) →
        w.method = v.method ∧ w.downgraded = v.downgraded) ∧
      (w.method = .sixTenths → d - offset < halfUp (d * 6) 10 → w.nearBed = true) ∧
      (w.method ≠ .sixTenths ∨ halfUp (d * 6) 10 ≤ d - offset → w.nearBed = v.nearBed) := by
  have hr : ¬ ((d : Int) - offset < 100) := by omega
  have h8 : ((d : Int) - offset < tenths 8 d) ↔ d - offset < halfUp (d * 8) 10 := by rw [tenths]; omega
  have h6 : ((d : Int) - offset < tenths 6 d) ↔ d - offset < halfUp (d * 6) 10 := by rw [tenths]; omega
  have e : v.sounded offset d =
      ({ v with depth := some d }.downgradeFor ((d : Int) - offset) d).nearBedFor ((d : Int) - offset) d := by
    simp only [Vertical.sounded, h, Bool.false_eq_true, if_false, hr]
  refine ⟨_, rfl, ?_⟩
  rw [e]
  by_cases hdown : (v.method = .twoPoint ∨ v.method = .threePoint) ∧ d - offset < halfUp (d * 8) 10
  · have hd1 : { v with depth := some d }.downgradeFor ((d : Int) - offset) d =
        { v with depth := some d, method := .sixTenths, downgraded := true } :=
      if_pos ⟨hdown.1, h8.mpr hdown.2⟩
    rw [hd1]
    by_cases hnear : d - offset < halfUp (d * 6) 10
    · simp only [Vertical.nearBedFor, h6, hnear, and_self, if_true]
      exact ⟨trivial, fun _ => trivial, fun hn => absurd hdown hn, fun _ _ => trivial,
        fun hn => absurd hn (by simpa using hnear)⟩
    · simp only [Vertical.nearBedFor, h6, hnear, and_false, if_false]
      exact ⟨trivial, fun _ => ⟨trivial, trivial⟩, fun hn => absurd hdown hn, fun _ hn => absurd hn not_false, fun _ => trivial⟩
  · have hd1 : { v with depth := some d }.downgradeFor ((d : Int) - offset) d = { v with depth := some d } :=
      if_neg fun hc => hdown ⟨hc.1, h8.mp hc.2⟩
    rw [hd1]
    by_cases hnear : v.method = .sixTenths ∧ d - offset < halfUp (d * 6) 10
    · simp only [Vertical.nearBedFor, h6, hnear, and_self, if_true]
      exact ⟨trivial, fun hc => absurd (hnear.1 ▸ hc) hdown, fun _ => trivial, fun _ _ => trivial,
        fun hn => absurd hn (by simpa using hnear.2)⟩
    · simp only [Vertical.nearBedFor, h6, hnear, if_false]
      exact ⟨trivial, fun hc => absurd hc hdown, fun _ => ⟨trivial, trivial⟩, fun h1 h2 => absurd ⟨h1, h2⟩ hnear, fun _ => trivial⟩

theorem takeSounded_taken {s : State} {n : Fin 4} {g : Gauging} {i : Nat} {v : Vertical} (hr : runs s n g)
    (hs : g.step = .sounding) (hi : g.current = some i) (hv : g.verticals[i]? = some v) (d : Nat) :
    takeSounded d s = if (v.sounded g.offset d).status = .todo then
        askSet (((v.sounded g.offset d).pointDepths g.offset).headD 0) g.offset
          (putGauging n { g.withVertical i (v.sounded g.offset d) with point := some 0, step := .setting } s)
      else finishVertical n (g.withVertical i (v.sounded g.offset d)) i s := by
  simp only [takeSounded, runningGauging_of_runs hr, hs, hi, hv, Option.bind_some, Option.map_some]

theorem takeSounded_finishes {s : State} {n : Fin 4} {g : Gauging} {i : Nat} {v : Vertical} {d : Nat} (hr : runs s n g)
    (hs : g.step = .sounding) (hi : g.current = some i) (hv : g.verticals[i]? = some v)
    (ht : s.carriage.takesSet s.watches.demand = true) (hw : (v.sounded g.offset d).status ≠ .todo)
    (hdist : (v.sounded g.offset d).distance = v.distance) :
    goesOn s (takeSounded d s) n { g with verticals := g.verticals.set i (v.sounded g.offset d) } i := by
  rw [takeSounded_taken hr hs hi hv, if_neg hw]
  exact finishVertical_goesOn (by simpa [Gauging.withVertical] using (List.getElem?_eq_some_iff.mp hv).1) ht
    (set_distances hr.2.2.1 hv hdist)

/-- R134: the target of a SET, with the surface and the bed found. -/
theorem setMeter_awaits {c : Carriage} {u b depth offset : Nat} (hs : c.surfaceHoist = some u) (hb : c.bedHoist = some b)
    (hh : c.hold = false) :
    (c.setMeter depth offset).awaited.map (·.command) = some (.hoistTo (min (u + depth + offset) b)) := by
  simp only [Carriage.setMeter, Carriage.callMove, hh, Carriage.setTarget, hs, hb]
  rfl

/-! ## A point reached in a running gauging (R161) -/

theorem takePointSet_idle {s : State} (h : ∀ n g, s.gaugings.get n = some g → g.state ≠ .running) : takePointSet s = s := by
  cases hr : runningGauging s with
  | none => simp only [takePointSet, hr]
  | some p =>
    obtain ⟨hg, hs⟩ := runningGauging_some (n := p.1) (g := p.2) hr
    exact absurd hs (h _ _ hg)

theorem takePointSet_starts {s : State} {n : Fin 4} {g : Gauging} (hr : runs s n g) (hs : g.step = .setting)
    (he : s.meter.exposing = false) (hm : s.meter.rating.isSome = true) :
    takePointSet s = { putGauging n { g with step := .exposing } s with meter := { s.meter with
      exposing := true, count := 0, saturated := false, taken := some s.meter.exposureTime
      exposureLeft := some (s.meter.exposureTime * 1000) } } := by
  have ha : s.meter.startAnswer = .started := by
    obtain ⟨r, hr⟩ := Option.isSome_iff_exists.mp hm
    simp [Meter.startAnswer, he, hr]
  simp only [takePointSet, runningGauging_of_runs hr, hs, if_true, ha, Meter.afterStart]

theorem takePointSet_refused {s : State} {n : Fin 4} {g : Gauging} (hr : runs s n g) (hs : g.step = .setting)
    (hm : s.meter.exposing = true ∨ s.meter.rating = none) :
    takePointSet s = askReturn (putGauging n (g.suspended .meterRefused .returning) s) := by
  have ha : s.meter.startAnswer ≠ .started := by
    rcases hm with hm | hm
    · simp [Meter.startAnswer, hm]
    · simp only [Meter.startAnswer, hm, Option.isNone_none, if_true]
      split <;> simp
  cases hsa : s.meter.startAnswer with
  | started => exact absurd hsa ha
  | noMeterRating => simp only [takePointSet, runningGauging_of_runs hr, hs, if_true, hsa]
  | busy => simp only [takePointSet, runningGauging_of_runs hr, hs, if_true, hsa]

theorem discardVisit_todo {g : Gauging} {i : Nat} {v : Vertical} (hi : g.current = some i) (hv : g.verticals[i]? = some v)
    (ht : v.status = .todo) : g.discardVisit.verticals = g.verticals.set i { v with
      depth := none, points := [], mean := none, flow := none, method := v.planned, nearBed := false
      downgraded := false, still := false, saturated := false } := by
  simp only [Gauging.discardVisit, hi, hv, Gauging.withVertical, Vertical.discarded, ht, if_true]

/-- R126: the carriage record with the awaited command answered, the assembler having taken the message. -/
def Carriage.afterAnswer (rest : List Order) (c : Carriage) : Carriage :=
  { c with outstanding := rest, awaited := none, moveLeft := none, rx := { c.rx with holding := none, taken := [] } }

/-- R126: an ARRIVED that answers the awaited command is acted on with the command answered. -/
theorem exec_arrived_awaited {s : State} {o : Order} {rest : List Order} (h : s.inReset = false)
    (hc : s.carriage.rx.clean WinchReport.arrived.chars) (ho : s.carriage.outstanding = o :: rest)
    (ha : s.carriage.awaited = some o) : exec .arrived s = .next
      (answered (s.carriage.afterAnswer rest) (withWrx { s.carriage.rx with holding := none, taken := [] } s)) := by
  rw [exec_event (f := winchSends WinchReport.arrived.message) rfl h, winchSends_clean hc]
  refine congrArg _ (?_ : arrivedComes (withWrx _ s) = _)
  have ho' : (withWrx { s.carriage.rx with holding := none, taken := [] } s).carriage.outstanding = o :: rest := ho
  have ha' : (withWrx { s.carriage.rx with holding := none, taken := [] } s).carriage.awaited = some o := ha
  simp only [arrivedComes, ho', ha', if_true]
  rfl

/-! ## The answer in a running gauging -/

section
variable {c : Carriage} {s : State} {n : Fin 4} {g : Gauging} {i : Nat} {v : Vertical}

/-- R134: a sounding that ends at the bed reports its depth. -/
theorem answered_sounded (h : c.state = .sounding) (hp : c.phase = .stopping) {u b d : Nat}
    (hu : c.surfaceHoist = some u) (hb : c.hoist = some b) (hd : d = b - u) :
    answered c s = takeSounded d (putCarriage c.endSounding s) := by
  have hbed : c.endSounding.atBed = true := by simp [Carriage.atBed, Carriage.endSounding, h]
  have hdepth : c.endSounding.soundedDepth = some d := by simp [Carriage.endSounding, soundedDepthOf, hu, hb, hd]
  rw [answered_halted_sounding h hp]
  simp only [putSounding, hbed, if_true, hdepth, Option.getD_some]

/-- R160, R163: what a sounding of the running gauging decides by its depth. -/
theorem answered_sounding_spec (hr : runs s n g) (hdem : s.watches.demand = false) (hi : g.current = some i)
    (hv : g.verticals[i]? = some v) (h : c.state = .sounding) (hp : c.phase = .stopping) (hs : g.step = .sounding)
    {u b d : Nat} (hu : c.surfaceHoist = some u) (hb : c.hoist = some b) (hd : d = b - u) :
    (v.edge = true → goesOn s (answered c s) n
      { g with verticals := g.verticals.set i { v with depth := some d, status := .done } } i) ∧
    (v.edge = false → d < g.offset + 100 → goesOn s (answered c s) n
      { g with verticals := g.verticals.set i { v with depth := some d, status := .skipped, flow := some 0 } } i) ∧
    (v.edge = false → v.status = .todo → g.offset + 100 ≤ d → ∃ w, (answered c s).gaugings = putAt s.gaugings n
        (some { g with verticals := g.verticals.set i w, point := some 0, step := .setting }) ∧
      w = { v with depth := some d, method := w.method, downgraded := w.downgraded, nearBed := w.nearBed } ∧
      ((v.method = .twoPoint ∨ v.method = .threePoint) ∧ d - g.offset < halfUp (d * 8) 10 →
        w.method = .sixTenths ∧ w.downgraded = true) ∧
      (¬((v.method = .twoPoint ∨ v.method = .threePoint) ∧ d - g.offset < halfUp (d * 8) 10) →
        w.method = v.method ∧ w.downgraded = v.downgraded) ∧
      (w.method = .sixTenths → d - g.offset < halfUp (d * 6) 10 → w.nearBed = true) ∧
      (w.method ≠ .sixTenths ∨ halfUp (d * 6) 10 ≤ d - g.offset → w.nearBed = v.nearBed) ∧
      (answered c s).carriage.state = .setting ∧ (c.hold = false → (answered c s).carriage.awaited.map (·.command) =
        some (.hoistTo (min (u + (pointDepthsOf w g.offset).headD 0 + g.offset) b)))) := by
  have hrun : runs (putCarriage c.endSounding s) n g := runs_congr hr (putCarriage_gaugings ..)
  have htakes : (putCarriage c.endSounding s).carriage.takesSet (putCarriage c.endSounding s).watches.demand = true := by
    simp [Carriage.takesSet, Carriage.atBed, Carriage.endSounding, h, hdem]
  rw [answered_sounded h hp hu hb hd]
  refine ⟨fun he => ?_, fun he hlow => ?_, fun he ht hdeep => ?_⟩
  · have hw := sounded_edge g.offset d he
    have hgo := takeSounded_finishes (d := d) hrun hs hi hv htakes (by simp [hw]) (by rw [hw])
    rw [hw] at hgo
    exact goesOn_congr hgo (by simp) (by simp) (by simp)
  · have hw := sounded_shallow he hlow
    have hgo := takeSounded_finishes (d := d) hrun hs hi hv htakes (by simp [hw]) (by rw [hw])
    rw [hw] at hgo
    exact goesOn_congr hgo (by simp) (by simp) (by simp)
  · obtain ⟨w, hw, hfields, h1, h2, h3, h4⟩ := sounded_deep (offset := g.offset) he hdeep
    have hst : w.status = .todo := by rw [hfields]; exact ht
    have htaken := takeSounded_taken hrun hs hi hv d
    rw [← hw, if_pos hst, askSet_taken (by simpa using htakes)] at htaken
    refine ⟨w, ?_, hfields, h1, h2, h3, h4, ?_, fun hh => ?_⟩
    · rw [htaken]
      simp
      rfl
    · rw [htaken]
      simp
    · rw [htaken, putCarriage_carriage, putGauging_carriage, putCarriage_carriage, pointDepths_eq]
      exact setMeter_awaits hu hb hh

/-- R161: what a point reached in the running gauging calls for. -/
theorem answered_setting_spec (hr : runs s n g) (hi : g.current = some i) (hv : g.verticals[i]? = some v)
    (hsc : s.carriage.state = .setting) (h : c.state = .setting) (hs : g.step = .setting) :
    (s.meter.exposing = false → s.meter.rating.isSome = true → (answered c s).carriage.state = .waitingMeter ∧
      (answered c s).gaugings = putAt s.gaugings n (some { g with step := .exposing }) ∧
      (answered c s).meter = { s.meter with
        exposing := true, count := 0, saturated := false, taken := some s.meter.exposureTime
        exposureLeft := some (s.meter.exposureTime * 1000) }) ∧
    (s.meter.exposing = true ∨ s.meter.rating = none → (answered c s).carriage.state = .raising ∧
      (answered c s).carriage.onward = some .home ∧ hasMember (answered c s).host.attention (.gauging n) = true ∧
      ∃ h, (answered c s).gaugings = putAt s.gaugings n (some h) ∧ h.state = .suspended ∧
        h.suspendCause = some .meterRefused ∧ h.step = .returning ∧
        (v.status = .todo → h.verticals = g.verticals.set i { v with
          depth := none, points := [], mean := none, flow := none, method := v.planned, nearBed := false
          downgraded := false, still := false, saturated := false })) := by
  have hrun : runs (putCarriage { c with state := .waitingMeter } s) n g := runs_congr hr (putCarriage_gaugings ..)
  have hm : (putCarriage { c with state := .waitingMeter } s).meter = s.meter := by simp [hsc]
  rw [answered_setting h]
  refine ⟨fun he hrt => ?_, fun hno => ?_⟩
  · rw [takePointSet_starts hrun hs (by rw [hm, he]) (by rw [hm, hrt])]
    exact ⟨by simp, by simp, by rw [hm]⟩
  · rw [takePointSet_refused hrun hs (by rw [hm]; exact hno)]
    have hw : (putGauging n (g.suspended .meterRefused .returning)
        (putCarriage { c with state := .waitingMeter } s)).carriage = { c with state := .waitingMeter } := by simp
    have hmark : hasMember (putGauging n (g.suspended .meterRefused .returning)
        (putCarriage { c with state := .waitingMeter } s)).host.attention (.gauging n) = true := by
      rw [putGauging, hasMember_addMemberIf, hrun.1]
      simp [marks_of_state (g := g) (h := g.suspended .meterRefused .returning) (by simp [hr.2.1, Gauging.suspended])]
    refine ⟨?_, ?_, (askReturn_marked _).keeps hmark, g.suspended .meterRefused .returning, by simp, rfl, rfl, rfl,
      fun ht => discardVisit_todo hi hv ht⟩
    · rw [askReturn_taken (by rw [hw]; rfl), putCarriage_carriage, hw, enterReturn_raises (by simp)]
      simp
    · rw [askReturn_taken (by rw [hw]; rfl), putCarriage_carriage, hw, enterReturn_raises (by simp)]
      simp

end

/-- Settles O46. -/
theorem theAwaitedAnswerMovesTheCarriage : Obligations.TheAwaitedAnswerMovesTheCarriage := by
  intro s o rest h hrx ho ha
  have hx := exec_arrived_awaited h hrx ho ha
  have hstate : (s.carriage.afterAnswer rest).state = s.carriage.state := rfl
  have hphase : (s.carriage.afterAnswer rest).phase = s.carriage.phase := rfl
  have honward : (s.carriage.afterAnswer rest).onward = s.carriage.onward := rfl
  refine ⟨_, hx, answered_outstanding _ _,
    ((withWrx_effect _ s).trans (answered_effect _ _)).written, fun hs => ?_, fun hs hp => ?_, fun hs hp hw => ?_,
    fun hs hp hb => ?_, fun hs hp => ?_, fun hs hp => ?_, fun hs hp => ?_, fun hs d hd => ?_, fun hs hd => ?_,
    fun hs hno => ?_, fun n g i v hr hdem hi hv => ⟨fun hs hp hst u b d hu hb hd => ?_, fun hs hst => ?_⟩⟩
  · rcases hs with hs | hs
    · rw [answered_homing (hstate.trans hs), putCarriage_carriage]
      exact ⟨rfl, rfl, rfl, rfl, rfl⟩
    · rw [answered_returning (hstate.trans hs), takeParked_carriage, putCarriage_carriage]
      exact ⟨rfl, rfl, rfl, rfl, rfl⟩
  · rw [answered_halted_traverse (hstate.trans hs) (hphase.trans hp)]
    simp
  · rw [answered_traverse (hstate.trans hs) (by rw [hphase, hp]; simp)]
    have e := enterLowering_dry (c := s.carriage.afterAnswer rest) hw
    rw [putSounding_carriage _ (by rw [e]; simp), e]
    obtain ⟨-, h2, h3⟩ := callMove_soundingKept (.hoistTo fullHoist) { s.carriage.afterAnswer rest with
      state := .lowering, phase := .payingOut, surfaceHoist := none, bedHoist := none, soundedDepth := none
      awaited := none, moveLeft := none }
    exact ⟨callMove_state .., callMove_phase .., callMove_hoists .., h2, h3⟩
  · rw [answered_halted_lowering (hstate.trans hs) (hphase.trans hp)]
    have e := enterSounding_off (c := { s.carriage.afterAnswer rest with
      surfaceHoist := (s.carriage.afterAnswer rest).hoist }) hb
    rw [putSounding_carriage _ (by rw [e]; simp), e]
    exact ⟨callMove_state .., callMove_phase .., callMove_hoists ..⟩
  · rw [answered_lowering (hstate.trans hs) (by rw [hphase, hp]; simp), stopCarriage_carriage]
    exact ⟨rfl, rfl⟩
  · rw [answered_sounding (hstate.trans hs) (by rw [hphase, hp]; simp), stopCarriage_carriage]
    exact ⟨rfl, rfl⟩
  · rw [answered_halted_sounding (hstate.trans hs) (hphase.trans hp)]
    obtain ⟨-, h2, h3⟩ := putSounding_soundingKept (s.carriage.afterAnswer rest).endSounding
      (withWrx { s.carriage.rx with holding := none, taken := [] } s)
    exact ⟨h2, h3⟩
  · rw [answered_onTo (hstate.trans hs) (honward.trans hd), putCarriage_carriage]
    exact ⟨traverse_state .., traverse_phase .., traverse_target ..⟩
  · rw [answered_home (hstate.trans hs) (fun d => by rw [honward, hd]; simp), putCarriage_carriage]
    exact callMove_state ..
  · rw [answered_setting (hstate.trans hs), takePointSet_idle (by rw [putCarriage_gaugings]; exact hno), putCarriage_carriage]
    exact ⟨rfl, rfl⟩
  · exact answered_sounding_spec (s := withWrx _ s) hr hdem hi hv (hstate.trans hs) (hphase.trans hp) hst hu hb hd
  · exact answered_setting_spec (s := withWrx _ s) hr hi hv hs (hstate.trans hs) hst

end Sys2Proof.Machine
end

section
/-! GAUGING_START, GAUGING_RESUME and GAUGING_ABORT, and an open gauging at a flow sample (R157, R158, R164, R167, R168). -/

namespace Sys2Proof.Machine

/-! ## A flow sample (R164) -/

theorem worseQuality_eq (w q : Quality) : worseQuality w q = if w.ctorIdx < q.ctorIdx then q else w := by
  cases w <;> cases q <;> rfl

theorem farFrom_iff (limit : Nat) (a b : Option Int) : farFrom limit a b = true ↔
    ∃ x y, a = some x ∧ b = some y ∧ (limit : Int) < (x - y).natAbs := by
  cases a with
  | none => simp [farFrom]
  | some x =>
    cases b with
    | none => simp [farFrom]
    | some y => simp [farFrom]

theorem afterFlow_closed {g : Gauging} (x : StageSample) (h1 : g.state ≠ .running) (h2 : g.state ≠ .suspended) :
    g.afterFlow x = g := if_neg fun h => ((isOpen_iff _).mp h).elim h1 h2

theorem afterFlow_of_open {g : Gauging} (x : StageSample) (h : g.state = .running ∨ g.state = .suspended) :
    g.afterFlow x = { g with
      latest := some (x.stage, x.quality)
      worst := some (g.worst.elim x.quality fun q => worseQuality q x.quality)
      stageAtStart := g.stageAtStart.or x.stage
      flags := { g.flags with
        sourceChanged := g.flags.sourceChanged || x.sourceChanged
        unsteady := g.flags.unsteady || farFrom g.unsteadyLimit (g.stageAtStart.or x.stage) x.stage } } := by
  rw [Gauging.afterFlow, if_pos ((isOpen_iff _).mpr h)]
  cases g.worst <;> rfl

theorem marks_of_flags {g h : Gauging} (hu : g.flags.unsteady = true → h.flags.unsteady = true)
    (hs : g.flags.sourceChanged = true → h.flags.sourceChanged = true)
    (hd : h.flags.unsteady ≠ g.flags.unsteady ∨ h.flags.sourceChanged ≠ g.flags.sourceChanged) : g.marks h = true := by
  simp only [Gauging.marks, Bool.or_eq_true, Bool.and_eq_true, Bool.not_eq_true']
  rcases hd with hd | hd
  · left; right
    cases h1 : g.flags.unsteady <;> cases h2 : h.flags.unsteady <;> simp [h1, h2] at hd hu ⊢
  · right
    cases h1 : g.flags.sourceChanged <;> cases h2 : h.flags.sourceChanged <;> simp [h1, h2] at hd hs ⊢

/-- R164: an open gauging after a flow sample, with its worst quality `q`. -/
theorem afterFlow_spec {g : Gauging} (x : StageSample) (h : g.state = .running ∨ g.state = .suspended) :
    ∃ q, g.afterFlow x = { g with
        latest := some (x.stage, x.quality), worst := some q
        stageAtStart := if g.stageAtStart.isSome then g.stageAtStart else x.stage
        flags := { g.flags with
          sourceChanged := g.flags.sourceChanged || x.sourceChanged, unsteady := (g.afterFlow x).flags.unsteady } } ∧
      (g.worst = none → q = x.quality) ∧
      (∀ w, g.worst = some w → q = if w.ctorIdx < x.quality.ctorIdx then x.quality else w) ∧
      ((g.afterFlow x).flags.unsteady = true ↔ g.flags.unsteady = true ∨
        ∃ a b, (g.afterFlow x).stageAtStart = some a ∧ x.stage = some b ∧ (g.unsteadyLimit : Int) < (a - b).natAbs) ∧
      ((g.afterFlow x).flags.unsteady ≠ g.flags.unsteady ∨ (g.afterFlow x).flags.sourceChanged ≠ g.flags.sourceChanged →
        g.marks (g.afterFlow x) = true) := by
  rw [afterFlow_of_open x h]
  have hstart : g.stageAtStart.or x.stage = if g.stageAtStart.isSome then g.stageAtStart else x.stage := by
    cases g.stageAtStart <;> rfl
  refine ⟨_, by rw [hstart], fun hw => by rw [hw]; rfl, fun w hw => by rw [hw]; exact worseQuality_eq .., ?_, ?_⟩
  · rw [Bool.or_eq_true, farFrom_iff]
  · exact marks_of_flags (by simp +contextual) (by simp +contextual)

/-! ## The first visit (R158, R167) -/

theorem exists_firstToVisit {g : Gauging} {k : Nat} (h : g.todoAt k = true) : ∃ i, firstToVisit g i := by
  cases hf : g.firstTodo with
  | some i => exact ⟨i, (firstTodo_iff g i).mp hf⟩
  | none =>
    have hno := List.find?_eq_none.mp hf k (by
      have hlt := todoAt_lt h
      cases hd : g.direction <;> simp [Gauging.order, hd, hlt])
    exact absurd h hno

theorem putGauging_member {n : Fin 4} {g old : Gauging} {s : State} (hg : s.gaugings.get n = some old)
    (hm : old.marks g = true) : hasMember (putGauging n g s).host.attention (.gauging n) = true := by
  rw [putGauging, hasMember_addMemberIf, hg]
  simp [hm]

theorem todoAt_vertical {g : Gauging} {i : Nat} (h : g.todoAt i = true) : ∃ v, g.verticals[i]? = some v :=
  ⟨_, List.getElem?_eq_getElem (todoAt_lt h)⟩

/-- R131, R132: the carriage at rest sets out to the first vertical to visit. -/
theorem beginVisit_setsOut {n : Fin 4} {g : Gauging} {s : State} {i : Nat} (hf : firstToVisit g i)
    (hp : s.carriage.state = .parked) (hd : s.watches.demand = false) (hdist : ∀ v ∈ g.verticals, v.distance ≤ 300000) :
    (∃ h, beginVisit n g s = { s with
      gaugings := putAt s.gaugings n (some (g.visiting i)), carriage := (beginVisit n g s).carriage, host := h }) ∧
    setsOut s (beginVisit n g s) (g.visiting i) ∧
    ∀ old, s.gaugings.get n = some old → old.state ≠ g.state →
      hasMember (beginVisit n g s).host.attention (.gauging n) = true := by
  obtain ⟨v, hv⟩ := todoAt_vertical hf.1
  have hle : v.distance ≤ maxDistance := hdist v (List.mem_of_getElem? hv)
  have he : g.distanceAt i = v.distance := by simp only [Gauging.distanceAt, hv, Option.map_some, Option.getD_some]
  have hb : beginVisit n g s = putCarriage (s.carriage.traverse v.distance) (putGauging n (g.visiting i) s) := by
    simp [beginVisit, (firstTodo_iff g i).mpr hf, askVisit, Carriage.takesVisit, hp, hd, he, hle]
  rw [hb]
  refine ⟨?_, ⟨i, v, rfl, hv, hf, rfl, rfl, by simp, by simp, fun hh => ?_, fun hh => ?_⟩, fun old ho hs => ?_⟩
  · obtain ⟨k, hk⟩ := putCarriage_stays (c := s.carriage.traverse v.distance) (s := putGauging n (g.visiting i) s)
      (by rw [putGauging_carriage, hp]; simp)
    refine ⟨k, ?_⟩
    rw [putCarriage_carriage, hk]
    refine State.eq_of_fields ?_ rfl ?_ ?_ ?_ ?_ ?_ ?_ ?_ rfl ?_ ?_ ?_ ?_ <;> simp
  · rw [putCarriage_carriage, Carriage.traverse, callMove_free (by exact hh)]
    exact ⟨rfl, rfl, rfl⟩
  · rw [putCarriage_carriage, Carriage.traverse, callMove_hold (by exact hh)]
    exact ⟨rfl, rfl, rfl⟩
  · exact (putCarriage_marked ..).keeps (putGauging_member ho (marks_of_state hs))

/-! ## The verticals at a start (R157, R158) -/

theorem innerEdge_none {vs : List Vertical}
    (h : ∀ i v, vs[i]? = some v → v.edge = true → i = 0 ∨ i + 1 = vs.length) : innerEdge vs = none := by
  refine List.find?_eq_none.mpr fun i hi => ?_
  rw [List.mem_range] at hi
  simp only [Bool.and_eq_true, decide_eq_true_eq, List.getElem?_eq_getElem hi, Option.any_some]
  rintro ⟨⟨h0, hn⟩, he⟩
  rcases h i _ (List.getElem?_eq_getElem hi) he with h' | h' <;> omega

theorem verticalsAtStart_get {vs : List Vertical} {i : Nat} {v : Vertical} (hv : vs[i]? = some v) :
    (verticalsAtStart vs)[i]? = some (v.atStart (spanAt (vs.map (·.distance)) i)) := by
  simp [verticalsAtStart, hv]

@[simp] theorem length_verticalsAtStart (vs : List Vertical) : (verticalsAtStart vs).length = vs.length := by
  simp [verticalsAtStart]

theorem spanAt_eq {vs : List Vertical} {d : Nat → Nat} {i : Nat} (h3 : 3 ≤ vs.length) (hi : i < vs.length)
    (hd : ∀ k x, vs[k]? = some x → d k = x.distance) : spanAt (vs.map (·.distance)) i =
      if i = 0 then d 1 - d 0 else if i + 1 = vs.length then d i - d (i - 1) else d (i + 1) - d (i - 1) := by
  have hget : ∀ k, k < vs.length → (vs.map (·.distance)).getD k 0 = d k := fun k hk => by
    rw [hd k _ (List.getElem?_eq_getElem hk)]
    simp [List.getD, hk]
  simp only [spanAt, List.length_map]
  by_cases h0 : i = 0
  · rw [if_pos h0, if_pos h0, hget 1 (by omega), hget 0 (by omega)]
  by_cases hl : i + 1 = vs.length
  · rw [if_neg h0, if_neg h0, if_pos hl, if_pos hl, hget i hi, hget (i - 1) (by omega)]
  · rw [if_neg h0, if_neg h0, if_neg hl, if_neg hl, hget (i + 1) (by omega), hget (i - 1) (by omega)]

theorem atStart_eq (span : Nat) (v : Vertical) : v.atStart span =
    if v.edge = true ∧ v.plannedDepth = some 0 then { v with span := span, status := .done, depth := some 0 }
    else { v with span := span } := rfl

theorem atStart_distance (span : Nat) (v : Vertical) : (v.atStart span).distance = v.distance := by
  rw [atStart_eq]
  split <;> rfl

theorem verticalsAtStart_distances {vs : List Vertical} (h : ∀ v ∈ vs, v.distance ≤ 300000) :
    ∀ v ∈ verticalsAtStart vs, v.distance ≤ 300000 := fun v hv => by
  obtain ⟨i, hi, hg⟩ := List.mem_iff_getElem.mp hv
  rw [length_verticalsAtStart] at hi
  have e := verticalsAtStart_get (List.getElem?_eq_getElem hi)
  rw [List.getElem?_eq_getElem (by simpa using hi), hg] at e
  rw [Option.some.inj e, atStart_distance]
  exact h _ (List.getElem_mem hi)

/-- R158: a vertical that is no edge stays TODO at the start. -/
theorem started_todo {g : Gauging} {i : Nat} {v : Vertical} (now : Nat) (flow : Option FlowSample)
    (hv : g.verticals[i]? = some v) (he : v.edge = false) (ht : v.status = .todo) : (g.started now flow).todoAt i = true := by
  have hget : (g.started now flow).verticals[i]? = some (v.atStart (spanAt (g.verticals.map (·.distance)) i)) :=
    verticalsAtStart_get hv
  rw [Gauging.todoAt, hget, atStart_eq, if_neg (by simp [he])]
  simp [ht]

/-! ## GAUGING_START and GAUGING_RESUME -/

theorem gaugingOpen_none {s : State}
    (h : ∀ j g, s.gaugings.get j = some g → g.state ≠ .running ∧ g.state ≠ .suspended) : gaugingOpen s = false := by
  rw [← Bool.not_eq_true, gaugingOpen_iff]
  rintro ⟨j, g, hg, ho⟩
  obtain ⟨h1, h2⟩ := h j g hg
  exact ((isOpen_iff _).mp ho).elim h1 h2

/-- R157: the checks that are left for a gauging planned well, with none open. -/
theorem gaugingStart_checked {slot : Byte} {n : Fin 4} {g : Gauging} {s : State} (hk : keyOf 4 slot = some n)
    (hg : s.gaugings.get n = some g) (hp : g.state = .planned) (h3 : 3 ≤ g.verticals.length)
    (he : innerEdge g.verticals = none) (ho : gaugingOpen s = false) : gaugingStart slot s =
      if s.carriage.state ≠ .parked then refuse .busy .nil s
      else if s.watches.demand then refuse .wrongState .nil s
      else (beginVisit n (g.started s.host.time s.lastFlow) s,
        ⟨.ok, .gaugingHeader (((beginVisit n (g.started s.host.time s.lastFlow) s).gaugings.get n).getD g)⟩) := by
  simp only [gaugingStart, hk, hg, hp, ne_eq, not_true, if_false, Nat.not_lt.mpr h3, he, ho, Bool.false_eq_true]

theorem gaugingResume_checked {slot : Byte} {n : Fin 4} {g : Gauging} {s : State} (hk : keyOf 4 slot = some n)
    (hg : s.gaugings.get n = some g) (hp : g.state = .suspended) : gaugingResume slot s =
      if s.carriage.state ≠ .parked then refuse .busy .nil s
      else if s.watches.demand then refuse .wrongState .nil s
      else (beginVisit n { g with state := .running, suspendCause := none } s, ⟨.ok, .nil⟩) := by
  simp only [gaugingResume, hk, hg, hp, ne_eq, not_true, if_false]

/-! ## GAUGING_ABORT -/

theorem askReturn_carriage (s : State) : (askReturn s).carriage = s.carriage.enterReturn := carriageWithdraw_carriage s

theorem gaugingAbort_open {slot : Byte} {n : Fin 4} {g : Gauging} {s : State} (hk : keyOf 4 slot = some n)
    (hg : s.gaugings.get n = some g) (ho : g.state = .running ∨ g.state = .suspended) : gaugingAbort slot s =
      (askReturn (putGauging n (g.abandoned s.host.time s.carriage.state.working) s), ⟨.ok, .nil⟩) := by
  simp only [gaugingAbort, hk, hg, (isOpen_iff _).mpr ho, if_true]

/-- R135: a call home from each state. -/
theorem returnsHome_of_enterReturn {s t : State} (h : t.carriage = s.carriage.enterReturn) : returnsHome s t := by
  rw [returnsHome, h]
  refine ⟨fun hs hp hm => ?_, enterReturn_onward, fun hs => ?_, fun hs => ?_⟩
  · rw [enterReturn_halts hs hp hm]
    exact ⟨hs, rfl, rfl, rfl⟩
  · obtain ⟨c, hc, hser, hwtx, hhold⟩ : ∃ c : Carriage, s.carriage.enterReturn = c.raise .home ∧
        c.nextSerial = s.carriage.nextSerial ∧ c.wtx = s.carriage.wtx ∧ c.hold = s.carriage.hold := by
      rcases hs with hs | hs | hs | hs | ⟨hs, hp, hm⟩
      · exact ⟨_, enterReturn_raises (.inl hs), rfl, rfl, rfl⟩
      · exact ⟨_, enterReturn_raises (.inr (.inl hs)), rfl, rfl, rfl⟩
      · exact ⟨_, enterReturn_raises (.inr (.inr (.inl hs))), rfl, rfl, rfl⟩
      · exact ⟨_, enterReturn_raises (.inr (.inr (.inr hs))), rfl, rfl, rfl⟩
      · refine ⟨{ s.carriage with pendingMove := none }, ?_, rfl, rfl, rfl⟩
        simp only [Carriage.enterReturn, hs, hp, hm, if_false, if_true]
    rw [hc, ← hser, ← hwtx, ← hhold]
    refine ⟨raise_state .., raise_onward .., fun hh => ?_, fun hh => ?_⟩
    · rw [Carriage.raise, callMove_free (by exact hh)]
      exact ⟨rfl, rfl⟩
    · rw [Carriage.raise, callMove_hold (by exact hh)]
      exact ⟨rfl, rfl⟩
  · cases hc : s.carriage.state <;> simp [hc, CarriageState.working] at hs <;> simp only [Carriage.enterReturn, hc]

theorem askReturn_waiting {s : State} (h : s.carriage.state = .waitingMeter) : (askReturn s).meter.exposing = false := by
  have he : s.carriage.enterReturn.state ≠ .waitingMeter := by
    rw [enterReturn_raises (.inr (.inr (.inr h))), raise_state]
    simp
  rw [askReturn_taken (by rw [h]; rfl), putCarriage_exposing he, h]
  simp

theorem askReturn_elsewhere {s : State} (h : s.carriage.state ≠ .waitingMeter) : (askReturn s).meter = s.meter := by
  simp only [askReturn]
  split
  · rw [putCarriage_meter, if_neg fun hc => h hc.1]
  · rfl

/-! ## The statement -/

/-- R158: a gauging planned well is started with the carriage at rest and no demand. -/
theorem gaugingStart_spec {slot : Byte} {n : Fin 4} {g : Gauging} {s : State} (h : s.inReset = false)
    (hi : s.host.ignoring = false) (hk : keyOf 4 slot = some n) (hg : s.gaugings.get n = some g) (hp : g.state = .planned)
    (h3 : 3 ≤ g.verticals.length)
    (hv : ∀ i v, g.verticals[i]? = some v → v.status = .todo ∧ v.distance ≤ 300000 ∧
      (v.edge = true → i = 0 ∨ i + 1 = g.verticals.length))
    (ho : ∀ j h, s.gaugings.get j = some h → h.state ≠ .running ∧ h.state ≠ .suspended)
    (hc : s.carriage.state = .parked) (hd : s.watches.demand = false) :
    ∃ t h, exec (.gaugingStart ⟨2, 2⟩ slot) s = .next t ∧
      t.gaugings = putAt s.gaugings n (some h) ∧ setsOut s t h ∧
      h = { g with
        state := .running, startTime := some s.host.time, stageSum := 0, stageCount := 0, flags := .clear
        suspendCause := none, stopCause := none, results := .absent
        stageAtStart := s.lastFlow.bind fun x => x.sample.stage
        latest := s.lastFlow.map fun x => (x.sample.stage, x.sample.quality)
        worst := s.lastFlow.map fun x => x.sample.quality
        verticals := h.verticals, current := h.current, point := h.point, step := h.step } ∧
      h.verticals.length = g.verticals.length ∧
      (∀ (d : Nat → Nat) (i : Nat) (v : Vertical) (span : Nat),
        (∀ k x, g.verticals[k]? = some x → d k = x.distance) → g.verticals[i]? = some v →
        span = (if i = 0 then d 1 - d 0 else if i + 1 = g.verticals.length then d i - d (i - 1)
          else d (i + 1) - d (i - 1)) →
        h.verticals[i]? = some (if v.edge = true ∧ v.plannedDepth = some 0 then
          { v with span := span, status := .done, depth := some 0 } else { v with span := span })) ∧
      t.host.buffer = some ⟨.ok, 0x62, .gaugingHeader h⟩ ∧ hasMember t.host.attention (.gauging n) = true ∧
      t = { s with gaugings := t.gaugings, carriage := t.carriage, host := t.host } := by
  have hone : 1 < g.verticals.length := by omega
  have hget := List.getElem?_eq_getElem hone
  obtain ⟨htodo, -, hedge⟩ := hv 1 _ hget
  have hinner : (g.verticals[1]).edge = false := by
    rw [← Bool.not_eq_true]
    intro he
    rcases hedge he with h | h <;> omega
  obtain ⟨i, hf⟩ := exists_firstToVisit (started_todo s.host.time s.lastFlow hget hinner htodo)
  have hdist : ∀ v ∈ (g.started s.host.time s.lastFlow).verticals, v.distance ≤ 300000 :=
    verticalsAtStart_distances fun v hm => by
      obtain ⟨k, hk', e⟩ := List.mem_iff_getElem.mp hm
      exact (hv k v (by rw [List.getElem?_eq_getElem hk', e])).2.1
  obtain ⟨⟨k, hb⟩, hsets, hmem⟩ := beginVisit_setsOut (n := n) hf hc hd hdist
  have hstart := gaugingStart_checked hk hg hp h3 (innerEdge_none fun i v hi => (hv i v hi).2.2) (gaugingOpen_none ho)
  rw [if_neg (not_not.mpr hc), if_neg (by simp [hd])] at hstart
  have hgs : (beginVisit n (g.started s.host.time s.lastFlow) s).gaugings =
      putAt s.gaugings n (some ((g.started s.host.time s.lastFlow).visiting i)) := by rw [hb]
  rw [hgs, putAt_get_self, Option.getD_some] at hstart
  refine ⟨_, (g.started s.host.time s.lastFlow).visiting i, verb_answers (n := 2) h hi (by decide) hstart, hgs, hsets, rfl,
    length_verticalsAtStart _, fun d i v span hds hvi hspan => ?_, rfl,
    hmem g hg (by rw [hp]; simp [Gauging.started]), by rw [hb]; rfl⟩
  have hlt : i < g.verticals.length := (List.getElem?_eq_some_iff.mp hvi).1
  have he : ((g.started s.host.time s.lastFlow).visiting i).verticals = verticalsAtStart g.verticals := rfl
  rw [hspan, ← spanAt_eq h3 hlt hds, ← atStart_eq]
  exact verticalsAtStart_get hvi

/-- R167: a suspended gauging is resumed with the carriage at rest and no demand. -/
theorem gaugingResume_spec {slot : Byte} {n : Fin 4} {g : Gauging} {s : State} (h : s.inReset = false)
    (hi : s.host.ignoring = false) (hk : keyOf 4 slot = some n) (hg : s.gaugings.get n = some g) (hp : g.state = .suspended)
    (ht : ∃ v ∈ g.verticals, v.status = .todo) (hdist : ∀ v ∈ g.verticals, v.distance ≤ 300000)
    (hc : s.carriage.state = .parked) (hd : s.watches.demand = false) :
    ∃ t h, exec (.gaugingResume ⟨2, 2⟩ slot) s = .next t ∧
      t.gaugings = putAt s.gaugings n (some h) ∧ setsOut s t h ∧
      h = { g with
        state := .running, suspendCause := none, current := h.current, point := h.point, step := h.step } ∧
      t.host.buffer = some ⟨.ok, 0x63, .nil⟩ ∧ hasMember t.host.attention (.gauging n) = true ∧
      t = { s with gaugings := t.gaugings, carriage := t.carriage, host := t.host } := by
  obtain ⟨v, hv, hst⟩ := ht
  obtain ⟨k, hlt, e⟩ := List.mem_iff_getElem.mp hv
  have htodo : ({ g with state := .running, suspendCause := none } : Gauging).todoAt k = true := by
    simp [Gauging.todoAt, hlt, e, hst]
  obtain ⟨i, hf⟩ := exists_firstToVisit htodo
  obtain ⟨⟨k, hb⟩, hsets, hmem⟩ := beginVisit_setsOut (n := n) hf hc hd hdist
  have hresume := gaugingResume_checked hk hg hp
  rw [if_neg (not_not.mpr hc), if_neg (by simp [hd])] at hresume
  exact ⟨_, ({ g with state := .running, suspendCause := none } : Gauging).visiting i,
    verb_answers (n := 2) h hi (by decide) hresume, by rw [hb]; rfl, hsets, rfl, rfl,
    hmem g hg (by rw [hp]; simp), by rw [hb]; rfl⟩

/-- R168: an open gauging is given up. -/
theorem gaugingAbort_spec {slot : Byte} {n : Fin 4} {g : Gauging} {s : State} (h : s.inReset = false)
    (hi : s.host.ignoring = false) (hk : keyOf 4 slot = some n) (hg : s.gaugings.get n = some g)
    (ho : g.state = .running ∨ g.state = .suspended) : ∃ t h, exec (.gaugingAbort ⟨2, 2⟩ slot) s = .next t ∧
      t.gaugings = putAt s.gaugings n (some h) ∧ h.state = .aborted ∧ h.current = none ∧ h.point = none ∧
      h.endTime = some s.host.time ∧ h.results = g.results ∧
      h.step = (if s.carriage.state.working then .returning else .none) ∧ returnsHome s t ∧
      (∀ i v, g.verticals[i]? = some v →
        (g.current ≠ some i ∨ v.status ≠ .todo → h.verticals[i]? = some v) ∧
        (g.current = some i → v.status = .todo → h.verticals[i]? = some { v with
          depth := none, points := [], mean := none, flow := none, method := v.planned, nearBed := false
          downgraded := false, still := false, saturated := false })) ∧
      (s.carriage.state = .waitingMeter → t.meter.exposing = false) ∧
      (s.carriage.state ≠ .waitingMeter → t.meter = s.meter) ∧
      t.host.buffer = some ⟨.ok, 0x64, .nil⟩ ∧ hasMember t.host.attention (.gauging n) = true ∧
      t = { s with gaugings := t.gaugings, carriage := t.carriage, meter := t.meter, host := t.host } := by
  have hne : g.state ≠ (g.abandoned s.host.time s.carriage.state.working).state := by
    rcases ho with ho | ho <;> rw [ho] <;> simp [Gauging.abandoned]
  obtain ⟨vs, hvs⟩ := discardVisit_same g
  refine ⟨_, g.abandoned s.host.time s.carriage.state.working,
    verb_answers (n := 2) h hi (by decide) (gaugingAbort_open hk hg ho), ?_, rfl, rfl, rfl, rfl, ?_, rfl,
    returnsHome_of_enterReturn ?_, fun i v hv => discardVisit_get g i hv, fun hw => ?_, fun hw => ?_, rfl,
    (askReturn_marked _).keeps (putGauging_member hg (marks_of_state hne)), ?_⟩
  · simp
  · simp only [Gauging.abandoned, hvs]
  · rw [respond_carriage, askReturn_carriage, putGauging_carriage]
  · rw [respond_meter]
    exact askReturn_waiting (by simpa using hw)
  · rw [respond_meter, askReturn_elsewhere (by simpa using hw), putGauging_meter]
  · obtain ⟨ca, me, ga, att, e⟩ := gaugingAbort_effect slot s
    rw [gaugingAbort_open hk hg ho] at e
    simp only at e
    rw [e]
    rfl

/-- Settles O51. -/
theorem aGaugingStartsResumesAndIsGivenUp : Obligations.AGaugingStartsResumesAndIsGivenUp := by
  intro slot n g s h hi hslot hg
  have hk := keyOf_eq_some hslot
  refine ⟨fun x => ?_, fun hp h3 hv ho => ⟨fun hc => ?_, fun hc hd => ?_, gaugingStart_spec h hi hk hg hp h3 hv ho⟩,
    fun hp ht hdist => ⟨fun hc => ?_, fun hc hd => ?_, gaugingResume_spec h hi hk hg hp ht hdist⟩,
    fun h1 h2 => ?_, gaugingAbort_spec h hi hk hg⟩
  · have hget : (gaugingTakeFlow x s).gaugings.get n = some (g.afterFlow x) := by
      rw [gaugingTakeFlow, putEachGauging_get, hg]
      rfl
    by_cases ho : g.state = .running ∨ g.state = .suspended
    · obtain ⟨q, e, h1, h2, h3, h4⟩ := afterFlow_spec x ho
      exact ⟨_, q, hget, fun hn hm => absurd ho (not_or.mpr ⟨hn, hm⟩), fun _ =>
        ⟨e, h1, h2, h3, fun hd => putEachGauging_member hg (h4 hd)⟩⟩
    · obtain ⟨h1, h2⟩ := not_or.mp ho
      exact ⟨_, .good, hget, fun _ _ => afterFlow_closed x h1 h2, fun hn => absurd hn ho⟩
  · refine verb_answers (n := 2) h hi (by decide) (block := gaugingStart slot) ?_
    rw [gaugingStart_checked hk hg hp h3 (innerEdge_none fun i v hi => (hv i v hi).2.2) (gaugingOpen_none ho), if_pos hc]
    rfl
  · refine verb_answers (n := 2) h hi (by decide) (block := gaugingStart slot) ?_
    rw [gaugingStart_checked hk hg hp h3 (innerEdge_none fun i v hi => (hv i v hi).2.2) (gaugingOpen_none ho),
      if_neg (not_not.mpr hc), if_pos hd]
    rfl
  · refine verb_answers (n := 2) h hi (by decide) (block := gaugingResume slot) ?_
    rw [gaugingResume_checked hk hg hp, if_pos hc]
    rfl
  · refine verb_answers (n := 2) h hi (by decide) (block := gaugingResume slot) ?_
    rw [gaugingResume_checked hk hg hp, if_neg (not_not.mpr hc), if_pos hd]
    rfl
  · have hn : g.state.isOpen = false := by
      rw [← Bool.not_eq_true, isOpen_iff]
      exact not_or.mpr ⟨h1, h2⟩
    refine verb_answers (n := 2) h hi (by decide) (block := gaugingAbort slot) ?_
    simp only [gaugingAbort, hk, hg, hn, Bool.false_eq_true, if_false]
    rfl

end Sys2Proof.Machine
end
